-- ==== Sys2Proof/Word.lean ====
section
/-! DEFINITION. The word types of SPICM and their plainest arithmetic (00_scope.md R6). -/

namespace Sys2Proof

/-- A data byte, a bus word, an 8-bit operand: FRAME_W, DATA_W, ADDR_W and COUNT_W are all 8 (R5). -/
abbrev Byte := BitVec 8

/-- The host command word CW, 28 bits (R78). -/
abbrev CmdWord := BitVec 28

/-- The control register, 16 bits (R14). -/
abbrev CrWord := BitVec 16

end Sys2Proof
end

