-- ==== Sys2Proof/Config.lean ====
section
/-! DEFINITION. What is fixed for the machine (00_scope.md R5): the constants the spec gives, the parameters it leaves
OPEN, and the free values. An `opaque` constant has no body: no proof can see its value, so a claim holds whatever it
is. -/

namespace Sys2Proof

/-! ## Constants the spec gives -/

/-- POWER_REGISTER (R5, 20_memory.md R42, D29). -/
def Config.powerRegister : Byte := 0x2D

/-- RESET_VALUE, "the all-zero reset pattern" (R5, R123). -/
def Config.resetValue : Byte := 0x00

/-- MEASURE_ENABLE_VALUE (R5, D29). -/
def Config.measureEnableValue : Byte := 0x08

/-- DATA_START, the sensor data block's start address (R5, R42, D29). -/
def Config.dataStart : Byte := 0x32

/-- SAMPLE_LEN, the bytes of the sample buffer (R5). -/
def Config.sampleLen : Nat := 6

/-- CR_CFG, the value CONFIGURE_BUS writes to CR (R5, 10_state.md R14, R26). -/
def Config.crCfg : CrWord := 0x034F

/-- The dummy byte RECEIVE writes to DR (R9, R108). -/
def Config.dummyByte : Byte := 0x00

/-! ## OPEN parameters (R5, D8, D29, U19; log entry 4) -/

/-- SPI_BASE, the base address of the register file: OPEN. -/
opaque Config.spiBase : Nat

/-- The six bits of RANGE_REGISTER: OPEN, within 0 to 63 by R123, which the type says. -/
opaque Config.rangeRegisterField : BitVec 6

/-- RANGE_REGISTER as an address operand. -/
def Config.rangeRegister : Byte := Config.rangeRegisterField.setWidth 8

/-- RANGE_VALUE, the ±4g pattern: OPEN. -/
opaque Config.rangeValue : Byte

/-! ## Free values (log entries 1, 2, 3), each applied to the counter `State.draws` -/

/-- How many steps of the sequencer pass before the engine takes its next enabled step: any finite number, so every
interleaving is covered in which an enabled engine step is eventually taken (R55, R96, R146). -/
opaque Config.engineDelay : Nat → Nat

/-- The byte on MISO in a word transfer, `draw(byte)`: any value, under no law (20_memory.md R61). -/
opaque Config.misoByte : Nat → Byte

/-- RXBUF after an overrun: any value (10_state.md R12, 40_shift_engine.md R92, U4). -/
opaque Config.overrunByte : Nat → Byte

end Sys2Proof
end

