-- ==== Sys2Proof/Syntax.lean ====
section
/-! DEFINITION. The operations of SPICM as data: one constructor per row of spec/opcode_table.json, and the forms in
which a row is presented to the block. -/

namespace Sys2Proof

/-- The twelve rows of the opcode table. The first eight are the host's operations (30_encoding.md R79), the last four
the wire encodings and wire frames (R71, R72, R75, R76). Every operand is as wide as the rule of the row says. -/
inductive Instr where
  /-- `CONFIGURE_BUS`, OP = 0x1 (41_transport.md R104). -/
  | configureBus
  /-- `SELECT_DEVICE`, OP = 0x2 (R105). -/
  | selectDevice
  /-- `DESELECT_DEVICE`, OP = 0x3 (R106). -/
  | deselectDevice
  /-- `TRANSMIT [b0, ...]`, OP = 0x4, N = the number of bytes, the bytes on the stream port (R107, R83). -/
  | transmit (bytes : List Byte)
  /-- `RECEIVE n`, OP = 0x5 (R108). -/
  | receive (n : Byte)
  /-- `READ_REGISTERS a, n`, OP = 0x6 (42_protocol.md R120). -/
  | readRegisters (a n : Byte)
  /-- `WRITE_REGISTER a, v`, OP = 0x7 (R121). -/
  | writeRegister (a v : Byte)
  /-- `INITIALIZE`, OP = 0x8 (R126). -/
  | initDevice
  /-- `ENC_READ(a)`, the command byte of a read (30_encoding.md R71). -/
  | encRead (a : Byte)
  /-- `ENC_WRITE(a)`, the command byte of a write (R72). -/
  | encWrite (a : Byte)
  /-- The write frame: command byte, then the value (R75). -/
  | writeFrame (a v : Byte)
  /-- The read frame: command byte, then `n` zero words (R76). -/
  | readFrame (a n : Byte)
deriving DecidableEq, Repr

/-- The three formats of the opcode table, as the block's request port presents them. The spec gives a port for the
command word only (R78, 92_eei_decisions.md D5); that the wire rows are presented beside it, each under its own
format, is DESIGN CHOICE (log entry 6). -/
inductive Item where
  /-- Format CW: the 28-bit host command word (R78). -/
  | cw (w : CmdWord)
  /-- Format CMD_BYTE: a command byte (R70). -/
  | cmdByte (b : Byte)
  /-- Format FRAME: the words of a transaction frame, first word first (R75, R76). -/
  | frame (ws : List Byte)
deriving DecidableEq, Repr

end Sys2Proof
end

