-- ==== Sys2Proof/WellFormed.lean ====
section
/-! DEFINITION. Which instructions can be written in their encoding (30_encoding.md R70 to R83). -/

namespace Sys2Proof

/-- The contract of an address operand: it fits the 6-bit field of the command byte (R71, R72, R74). -/
def addrFits (a : Byte) : Bool := decide (a.toNat < 64)

/-- A byte list whose length fits the N field of the command word: `0 ≤ L ≤ 255` (R107, D3). -/
def lengthFits (bs : List Byte) : Bool := decide (bs.length < 256)

/-- Well-formed: the operands fit the fields of the row's encoding. A host command carries the whole 8-bit address
operand in its A field, so an address of 64 or more is well-formed there although it breaks the caller's contract
(R74); on the wire the address has six bits. -/
def Instr.wellFormed : Instr → Bool
  | .configureBus => true
  | .selectDevice => true
  | .deselectDevice => true
  | .transmit bs => lengthFits bs
  | .receive _ => true
  | .readRegisters _ _ => true
  | .writeRegister _ _ => true
  | .initDevice => true
  | .encRead a => addrFits a
  | .encWrite a => addrFits a
  | .writeFrame a _ => addrFits a
  | .readFrame a _ => addrFits a

end Sys2Proof
end

