-- ==== Sys2Proof/Decode.lean ====
section
/-! DEFINITION. The two encodings of SPICM: the command byte and the frames on the wire (30_encoding.md R70 to R77),
and the host command word (R78 to R83); a total decoder that rejects by name, and after it the encoder. -/

namespace Sys2Proof

/-- Why a presented item names no operation. -/
inductive Reject where
  /-- OP is 0x0 or 0x9 to 0xF (R80). -/
  | reservedSelector (op : BitVec 4)
  /-- A command byte with MB = 0: no row of the table, never produced by the block (R73, R85). -/
  | noCommandByte (b : Byte)
  /-- Words that are neither a write frame (R75) nor a read frame (R76). -/
  | noFrame
deriving DecidableEq, Repr

/-- What the decoder answers. -/
inductive Decoded where
  /-- An operation, and the stream bytes left after the ones it took. -/
  | ok (i : Instr) (rest : List Byte)
  /-- A TRANSMIT whose `L` bytes have not all been offered on the stream port yet (R83). -/
  | short
  | reject (r : Reject)
deriving DecidableEq, Repr

/-! ## The command byte -/

/-- `ENC_READ(a) = a | 0x80 | 0x40`, on all 8 bits of the operand (R71, R74). -/
def encReadByte (a : Byte) : Byte := a ||| 0x80 ||| 0x40

/-- `ENC_WRITE(a) = a | 0x40`, on all 8 bits of the operand (R72, R74). -/
def encWriteByte (a : Byte) : Byte := a ||| 0x40

/-- RW, bit 7 of a command byte: 0 = write, 1 = read (R70). -/
def cmdRW (b : Byte) : Bool := b.getLsbD 7

/-- MB, bit 6 of a command byte: auto-increment enable (R70). -/
def cmdMB (b : Byte) : Bool := b.getLsbD 6

/-- ADDR, bits 5:0 of a command byte (R70). -/
def cmdAddr (b : Byte) : BitVec 6 := b.extractLsb' 0 6

/-- The address operand a command byte stands for: ADDR, extended with zeros. -/
def cmdAddrOperand (b : Byte) : Byte := (cmdAddr b).setWidth 8

/-! ## The host command word -/

/-- OP, bits 27:24 (R78). -/
def cwOp (w : CmdWord) : BitVec 4 := w.extractLsb' 24 4

/-- A, bits 23:16 (R78). -/
def cwA (w : CmdWord) : Byte := w.extractLsb' 16 8

/-- V, bits 15:8 (R78). -/
def cwV (w : CmdWord) : Byte := w.extractLsb' 8 8

/-- N, bits 7:0 (R78). -/
def cwN (w : CmdWord) : Byte := w.extractLsb' 0 8

/-- The word with the four fields `{OP, A, V, N}` (R78). -/
def cwMake (op : BitVec 4) (a v n : Byte) : CmdWord := op ++ a ++ v ++ n

/-- A TRANSMIT of length `l` takes its bytes from the stream port, first byte first (R83). -/
def decodeTransmit (l : Nat) (stream : List Byte) : Decoded :=
  if stream.length < l then .short else .ok (.transmit (stream.take l)) (stream.drop l)

/-- The host command word: only OP selects, and each operation reads the fields it uses (R79, R80). -/
def decodeCW (w : CmdWord) (stream : List Byte) : Decoded :=
  match (cwOp w).toNat with
  | 1 => .ok .configureBus stream
  | 2 => .ok .selectDevice stream
  | 3 => .ok .deselectDevice stream
  | 4 => decodeTransmit (cwN w).toNat stream
  | 5 => .ok (.receive (cwN w)) stream
  | 6 => .ok (.readRegisters (cwA w) (cwN w)) stream
  | 7 => .ok (.writeRegister (cwA w) (cwV w)) stream
  | 8 => .ok .initDevice stream
  | _ => .reject (.reservedSelector (cwOp w))

/-- A command byte: `11aaaaaa` is ENC_READ, `01aaaaaa` is ENC_WRITE, a byte with MB = 0 is neither (R70, R73). -/
def decodeCmdByte (b : Byte) (stream : List Byte) : Decoded :=
  if cmdMB b then
    if cmdRW b then .ok (.encRead (cmdAddrOperand b)) stream else .ok (.encWrite (cmdAddrOperand b)) stream
  else .reject (.noCommandByte b)

/-- The words of a read frame after its command byte: `n` zero words, `n` below 256 (R76). -/
def isDummies (ws : List Byte) : Bool := ws.all (fun w => w == 0) && decide (ws.length < 256)

/-- A frame: `01aaaaaa vvvvvvvv` is a write frame (R75), `11aaaaaa` and then zero words a read frame (R76). -/
def decodeFrame (ws : List Byte) (stream : List Byte) : Decoded :=
  match ws with
  | [] => .reject .noFrame
  | c :: ds =>
    if cmdMB c then
      if cmdRW c then
        if isDummies ds then .ok (.readFrame (cmdAddrOperand c) (BitVec.ofNat 8 ds.length)) stream
        else .reject .noFrame
      else
        match ds with
        | [v] => .ok (.writeFrame (cmdAddrOperand c) v) stream
        | _ => .reject .noFrame
    else .reject .noFrame

/-- The decoder, total on every item and every stream. -/
def decode (it : Item) (stream : List Byte) : Decoded :=
  match it with
  | .cw w => decodeCW w stream
  | .cmdByte b => decodeCmdByte b stream
  | .frame ws => decodeFrame ws stream

/-! ## The opcode table's own numbering -/

/-- The item whose bits are `w` in the numbering of spec/opcode_table.json: a command word in 28 bits (or in the four
bytes that hold it, the top four bits zero), a command byte in 8 bits, a two-word frame in 16 bits with its first word
in bits 15:8. The table's 16-bit row is written with the first bit sent at the left, so its first word is the upper
byte (log entry 8). -/
def itemOfTableWord (nbits w : Nat) : Option Item :=
  if nbits = 28 || nbits = 32 then
    if w < 2 ^ 28 then some (.cw (BitVec.ofNat 28 w)) else none
  else if nbits = 8 then
    if w < 2 ^ 8 then some (.cmdByte (BitVec.ofNat 8 w)) else none
  else if nbits = 16 then
    if w < 2 ^ 16 then some (.frame [BitVec.ofNat 8 (w / 256), BitVec.ofNat 8 (w % 256)]) else none
  else none

/-- The operand bytes above a table word are all zero: as many zero bytes as the longest TRANSMIT takes. -/
def zeroStream : List Byte := List.replicate 255 0

/-- The instruction the decoder reads from an instruction whose bits are `w`, numbered as the opcode table numbers
them. -/
def decodeTableWord (nbits w : Nat) : Option Instr :=
  match itemOfTableWord nbits w with
  | none => none
  | some it =>
    match decode it zeroStream with
    | .ok i _ => some i
    | .short => none
    | .reject _ => none

/-! ## The encoder -/

/-- The item that presents an instruction (R70 to R81). -/
def encodeItem : Instr → Item
  | .configureBus => .cw (cwMake 1 0 0 0)
  | .selectDevice => .cw (cwMake 2 0 0 0)
  | .deselectDevice => .cw (cwMake 3 0 0 0)
  | .transmit bs => .cw (cwMake 4 0 0 (BitVec.ofNat 8 bs.length))
  | .receive n => .cw (cwMake 5 0 0 n)
  | .readRegisters a n => .cw (cwMake 6 a 0 n)
  | .writeRegister a v => .cw (cwMake 7 a v 0)
  | .initDevice => .cw (cwMake 8 0 0 0)
  | .encRead a => .cmdByte (encReadByte a)
  | .encWrite a => .cmdByte (encWriteByte a)
  | .writeFrame a v => .frame [encWriteByte a, v]
  | .readFrame a n => .frame (encReadByte a :: List.replicate n.toNat 0)

/-- The bytes an instruction takes from the stream port: TRANSMIT's list, nothing for the others (R83). -/
def encodeStream : Instr → List Byte
  | .configureBus => []
  | .selectDevice => []
  | .deselectDevice => []
  | .transmit bs => bs
  | .receive _ => []
  | .readRegisters _ _ => []
  | .writeRegister _ _ => []
  | .initDevice => []
  | .encRead _ => []
  | .encWrite _ => []
  | .writeFrame _ _ => []
  | .readFrame _ _ => []

/-- The words of a well-formed instruction: the item on the request port and the bytes on the stream port. -/
def encode (i : Instr) : Item × List Byte := (encodeItem i, encodeStream i)

end Sys2Proof
end

