-- ==== Sys2Proof/Machine/State.lean ====
section
/-! DEFINITION. The state of SPICM as plain data (10_state.md), the micro-operations and the events it is made of, the
reasons a step can stop, and the state after reset (R24). -/

namespace Sys2Proof.Machine

/-- The flags a poll can wait for (41_transport.md R100). OVR is in every SR image, but no poll reads it (R17). -/
inductive Flag where
  | txe
  | rxne
  | bsy
deriving DecidableEq, Repr

/-- The device's power state as INITIALIZE moves it (10_state.md R22, 42_protocol.md R124). -/
inductive DevPower where
  | uninitialized
  | standby
  | measuring
deriving DecidableEq, Repr

/-- The micro-operations of 41_transport.md R100: ten that touch the hardware, and the ghost `setPower`. A level or a
flag value is a Bool, `true` = 1. -/
inductive MicroOp where
  | extPins
  | extBusEn
  | wrCRcfg
  | cs (level : Bool)
  | poll (f : Flag) (b : Bool)
  | wrDRb (v : Byte)
  | rdDRkeep
  | rdDRdrop
  | rdSRdrop
  | setPower (p : DevPower)
deriving DecidableEq, Repr

/-- Why SR was read. The register trace of 10_state.md R23 keeps of the `RSR` events only those that end a poll and
the drain's; the mark says which those are (DESIGN CHOICE, log entry 14). -/
inductive SrUse where
  /-- The read that ends `Poll(f, b)`. -/
  | passed (f : Flag) (b : Bool)
  /-- A read after which `Poll(f, b)` tries again. -/
  | failed (f : Flag) (b : Bool)
  /-- `RdSRdrop`, the second half of the drain. -/
  | drain
deriving DecidableEq, Repr

/-- The events of the history (R23). -/
inductive Event where
  | csAssert
  | csDeassert
  /-- `WDR(v)`. -/
  | wdr (v : Byte)
  /-- `RDR(v)`. -/
  | rdr (v : Byte)
  /-- `RSR(s)`, with why SR was read. -/
  | rsr (image : Byte) (use : SrUse)
  /-- `WCR(v)`. -/
  | wcr (v : CrWord)
  | extPins
  | extBusEn
  /-- `START(o)`. -/
  | start (o : Byte)
  /-- `XFER(o, i)`: `o` sent on MOSI, `i` received on MISO. -/
  | xfer (o i : Byte)
  /-- `ACCEPT(cmd)`. -/
  | accept (cmd : Instr)
  /-- `DONE(cmd, result)`. -/
  | done (cmd : Instr) (result : List Byte)
deriving DecidableEq, Repr

/-- The device register space (20_memory.md R40, R42): address and byte pairs, addresses rising and below 64, no entry
equal to what an unlisted address reads as. -/
abbrev Memory := List Host.Cell

/-- The modes of the reference slave (R60). -/
inductive SlaveMode where
  | idleS
  | cmd
  | wr
  | rd
  | refuseNext
deriving DecidableEq, Repr

/-- The reference slave of 20_memory.md R60, the mock register file. -/
structure Slave where
  regs : Memory
  ptr : BitVec 6
  mode : SlaveMode
  mb : Bool
deriving DecidableEq, Repr

/-- What stops the machine with a fault. The block raises none (60_exceptions.md R140). -/
inductive Fault where
  /-- An access at an address of the peripheral space at which 20_memory.md R41 has no register. Raised by `busRead`
  and `busWrite` only, which no micro-operation uses at such an address. Safe. -/
  | noSuchRegister (address : Nat)
deriving DecidableEq, Repr

/-- Where the model gives no meaning. -/
inductive Refusal where
  /-- An instruction with no meaning yet: raised by `exec`'s arm of that instruction. Safe. -/
  | notModelled (mnemonic : String)
  /-- A command word with OP 0x0 or 0x9 to 0xF: raised by the fetch (30_encoding.md R80, U12). Safe. -/
  | reservedSelector (op : BitVec 4)
  /-- A byte with MB = 0 presented as a command byte: raised by the fetch (R73, R85). Safe. -/
  | noCommandByte (b : Byte)
  /-- Words that are no frame of the table, presented as a frame: raised by the fetch (R75, R76). Safe. -/
  | noFrame
  /-- CONFIGURE_BUS or INITIALIZE with cfg_done = 1: raised by their meanings and by `WrCR` (41_transport.md R104,
  D18, U3). Safe. -/
  | secondConfiguration
  /-- A write to DR while TXE = 0: raised by `WrDR` (20_memory.md R45, U6). Safe. -/
  | drWriteWhileFull
  /-- A write to CR of a value other than CR_CFG: raised by `WrCR` (R26, R47, U8). Safe. -/
  | crOtherValue (v : CrWord)
  /-- A read of CR: raised by `busRead` (R47, U13). Safe. -/
  | crRead
  /-- A write to SR: raised by `busWrite` (10_state.md R15, U13). Safe. -/
  | srWrite
  /-- The reference slave gets a command byte with MB = 0: raised by the slave's exchange (R60, U10). Safe. -/
  | slaveNoAutoIncrement
  /-- The reference slave is clocked past address 0x3F: raised by the slave's exchange (R60, U9). Safe. -/
  | slavePastLast
deriving DecidableEq, Repr

/-- The state. Every flag is a Bool, `true` = 1. SR and DR are no fields: SR is an image of the flags (R15), DR a port
onto TXBUF and RXBUF (R16). -/
structure State where
  -- registers and flags of the block (10_state.md R11 to R19)
  txbuf : Byte
  rxbuf : Byte
  shout : Byte
  cr : CrWord
  txe : Bool
  rxne : Bool
  bsy : Bool
  ovr : Bool
  ovrArm : Bool
  /-- The level of CS_n: `false` = asserted (R19). -/
  csN : Bool
  -- the sequencer (R20, R21)
  todo : List MicroOp
  op : Option Instr
  rxout : List Byte
  -- the command encoder's result (30_encoding.md R71, R72; log entry 6)
  encOut : Byte
  -- ghost marks and history (R22, R23)
  busClkEn : Bool
  pinsCfg : Bool
  cfgDone : Bool
  devPower : DevPower
  hist : List Event
  -- the environment
  /-- What HOST has yet to issue on the request port, first first (R78, R81; log entry 15). -/
  hostPort : List Item
  /-- The bytes HOST offers on the byte stream port (R83). -/
  txStream : List Byte
  /-- The reference slave, where one is plugged in (20_memory.md R60, R61). -/
  slave : Option Slave
  /-- The pulses of rst_n still to come: for each, the number of steps that pass before it, counted from the pulse
  before (70_reset_and_hazards.md R160, R162; log entry 13). -/
  rstAfter : List Nat
  -- the model's own counters (log entry 1)
  /-- The index of the next free value. -/
  draws : Nat
  /-- The sequencer's steps since the engine last moved, while it is enabled. -/
  waited : Nat
deriving DecidableEq, Repr

/-- The state after reset (10_state.md R24, 70_reset_and_hazards.md R160), with nothing presented by the outside. -/
def State.reset : State where
  txbuf := 0x00
  rxbuf := 0x00
  shout := 0x00
  cr := 0x0000
  txe := true
  rxne := false
  bsy := false
  ovr := false
  ovrArm := false
  csN := true
  todo := []
  op := none
  rxout := []
  encOut := 0x00
  busClkEn := false
  pinsCfg := false
  cfgDone := false
  devPower := .uninitialized
  hist := []
  hostPort := []
  txStream := []
  slave := none
  rstAfter := []
  draws := 0
  waited := 0

/-- What a step, or a part of one, answers on this machine. -/
abbrev Result (α : Type) := Host.Outcome α Fault Refusal

end Sys2Proof.Machine
end

