-- ==== Sys2Proof/Machine/Flags.lean ====
section
/-! DEFINITION. The fields of CR (10_state.md R14), the image of SR (R15), the engine's enable condition (R28) and what
the flags say about the engine (40_shift_engine.md R91, R92). -/

namespace Sys2Proof.Machine

/-! ## CR -/

/-- CPHA, bit 0: 1 = data captured on the second clock edge (R14). -/
def crCPHA (c : CrWord) : Bool := c.getLsbD 0

/-- CPOL, bit 1: 1 = SCK idles high (R14). -/
def crCPOL (c : CrWord) : Bool := c.getLsbD 1

/-- MSTR, bit 2: 1 = master mode (R14). -/
def crMSTR (c : CrWord) : Bool := c.getLsbD 2

/-- BR, bits 5:3: the clock divisor selector (R14). -/
def crBR (c : CrWord) : BitVec 3 := c.extractLsb' 3 3

/-- SPE, bit 6: 1 = peripheral enabled (R14). -/
def crSPE (c : CrWord) : Bool := c.getLsbD 6

/-- LSBFIRST, bit 7: 0 = most significant bit first (R14). -/
def crLSBFIRST (c : CrWord) : Bool := c.getLsbD 7

/-- SSI, bit 8: the internal select level (R14). -/
def crSSI (c : CrWord) : Bool := c.getLsbD 8

/-- SSM, bit 9: 1 = slave-select managed by software (R14). -/
def crSSM (c : CrWord) : Bool := c.getLsbD 9

/-- RXONLY, bit 10: 0 = full duplex (R14). -/
def crRXONLY (c : CrWord) : Bool := c.getLsbD 10

/-- DFF, bit 11: 0 = 8-bit word (R14). -/
def crDFF (c : CrWord) : Bool := c.getLsbD 11

/-- Bits 14:12, reserved: written 0, read 0 (R14). -/
def crReserved (c : CrWord) : BitVec 3 := c.extractLsb' 12 3

/-- BIDIMODE, bit 15: 0 = two unidirectional data lines (R14). -/
def crBIDIMODE (c : CrWord) : Bool := c.getLsbD 15

/-- SCK = bus clock / 2^(BR+1) (R14, R95). -/
def sckDivisor (c : CrWord) : Nat := 2 ^ ((crBR c).toNat + 1)

/-! ## SR -/

/-- `{BSY, OVR, 0, 0, 0, 0, TXE, RXNE}` (R15). -/
def srImage (s : State) : Byte :=
  BitVec.ofBool s.bsy ++ BitVec.ofBool s.ovr ++ 0#4 ++ BitVec.ofBool s.txe ++ BitVec.ofBool s.rxne

/-- The flag a poll takes from an image: TXE is bit 1, RXNE bit 0, BSY bit 7 (41_transport.md R102). -/
def flagOf (f : Flag) (image : Byte) : Bool :=
  match f with
  | .txe => image.getLsbD 1
  | .rxne => image.getLsbD 0
  | .bsy => image.getLsbD 7

/-! ## The engine's condition -/

/-- `SE_on`: bus_clk_en = 1 and CR.SPE = 1 and CR.MSTR = 1 (R28). -/
def seOn (s : State) : Bool := s.busClkEn && crSPE s.cr && crMSTR s.cr

/-- SE-LOAD is enabled: `SE_on and TXE = 0 and BSY = 0` (R91). -/
def loadEnabled (s : State) : Bool := seOn s && !s.txe && !s.bsy

/-- SE-DONE is enabled: `SE_on and BSY = 1` (R92). -/
def doneEnabled (s : State) : Bool := seOn s && s.bsy

/-- The engine has a step (R90). -/
def engineEnabled (s : State) : Bool := loadEnabled s || doneEnabled s

end Sys2Proof.Machine
end

