-- ==== Sys2Proof/Machine/Ops.lean ====
section
/-! DEFINITION. The named operations over the state: the history, the four register access primitives
(20_memory.md R44 to R47) and the accesses by address (R7, R41), the device register memory, acceptance and completion
of an operation (41_transport.md R103, R109), and reset (70_reset_and_hazards.md R160 to R162). The block raises no
exception and has none to return from (60_exceptions.md R140, R147, R148). -/

namespace Sys2Proof.Machine

/-- Go on with the value a part of a step answers, and stop where it stops. -/
def thenDo {α β : Type} (r : Result α) (f : α → Result β) : Result β :=
  match r with
  | .next a => f a
  | .fault e => .fault e
  | .refused e => .refused e

/-- `emit e`: append an event to the history (R7, R23). -/
def State.emit (s : State) (e : Event) : State := { s with hist := s.hist ++ [e] }

/-! ## The register access primitives -/

/-- `RdDR()`: the byte of RXBUF; arms the overrun clear when OVR = 1; clears RXNE (R44). -/
def rdDR (s : State) : Byte × State :=
  (s.rxbuf, State.emit { s with ovrArm := s.ovrArm || s.ovr, rxne := false } (.rdr s.rxbuf))

/-- `WrDR(v)`: the byte goes to TXBUF and TXE is cleared; contract TXE = 1, refused otherwise (R45, U6). -/
def wrDR (v : Byte) (s : State) : Result State :=
  if s.txe then .next (State.emit { s with txbuf := v, txe := false } (.wdr v))
  else .refused .drWriteWhileFull

/-- `RdSR()`: the image from before any clearing; OVR and ovr_arm are cleared when ovr_arm = 1 (R46). -/
def rdSR (use : SrUse) (s : State) : Byte × State :=
  (srImage s,
    State.emit { s with ovr := s.ovr && !s.ovrArm, ovrArm := false } (.rsr (srImage s) use))

/-- `WrCR(v)`: contract v = CR_CFG and cfg_done = 0, refused otherwise (R47, R26, D18). -/
def wrCR (v : CrWord) (s : State) : Result State :=
  if v ≠ Config.crCfg then .refused (.crOtherValue v)
  else if s.cfgDone then .refused .secondConfiguration
  else .next (State.emit { s with cr := v, cfgDone := true } (.wcr v))

/-! ## The peripheral register space (R41) -/

/-- The register at an offset from SPI_BASE: CR at 0x00, SR at 0x08, DR at 0x0C, nothing elsewhere (R41). -/
inductive PReg where
  | cr
  | sr
  | dr
deriving DecidableEq, Repr

/-- The offset of a register (R41, D8). -/
def pregOffset : PReg → Nat
  | .cr => 0x00
  | .sr => 0x08
  | .dr => 0x0C

/-- The width of a register in bits (R41, R53). -/
def pregWidth : PReg → Nat
  | .cr => 16
  | .sr => 8
  | .dr => 8

/-- The address of a register (R41). -/
def pregAddress (r : PReg) : Nat := Config.spiBase + pregOffset r

/-- The register at an address of the peripheral space, if there is one (R41). -/
def pregAt (address : Nat) : Option PReg :=
  if address = pregAddress .cr then some .cr
  else if address = pregAddress .sr then some .sr
  else if address = pregAddress .dr then some .dr
  else none

/-- `MemRead`: DR is `RdDR()`, SR is `RdSR()` (00_scope.md R7); a read of CR is not defined (R47, U13). -/
def busRead (address : Nat) (s : State) : Result (Byte × State) :=
  match pregAt address with
  | some .dr => .next (rdDR s)
  | some .sr => .next (rdSR .drain s)
  | some .cr => .refused .crRead
  | none => .fault (.noSuchRegister address)

/-- `MemWrite`: DR is `WrDR(v)`, CR is `WrCR(v)` (R7); a write to SR has no meaning (10_state.md R15, U13). The value
is as wide as CR; DR takes its low byte. -/
def busWrite (address : Nat) (v : CrWord) (s : State) : Result State :=
  match pregAt address with
  | some .dr => wrDR (v.setWidth 8) s
  | some .sr => .refused .srWrite
  | some .cr => wrCR v s
  | none => .fault (.noSuchRegister address)

/-! ## The device register memory (20_memory.md R40, R42, R60) -/

/-- What a device register that nothing has written reads as: DESIGN CHOICE 0x00 (log entry 12). -/
def unlistedRegister : Byte := 0x00

/-- The byte of device register `a`. -/
def Memory.read : Memory → Nat → Byte
  | [], _ => unlistedRegister
  | (k, b) :: rest, a => if a = k then b else Memory.read rest a

/-- The cell at the head of the rest, unless its byte is what an unlisted register reads as. -/
def Memory.cons (a : Nat) (v : Byte) (rest : Memory) : Memory :=
  if v = unlistedRegister then rest else (a, v) :: rest

/-- Write a device register, keeping the canonical form. -/
def Memory.write : Memory → Nat → Byte → Memory
  | [], a, v => Memory.cons a v []
  | (k, b) :: rest, a, v =>
    if a < k then Memory.cons a v ((k, b) :: rest)
    else if a = k then Memory.cons a v rest
    else (k, b) :: Memory.write rest a v

/-- The canonical form from address `lo` on. -/
def Memory.wfFrom : Nat → Memory → Bool
  | _, [] => true
  | lo, (k, b) :: rest => decide (lo ≤ k) && decide (k < 64) && decide (b ≠ unlistedRegister) && Memory.wfFrom (k + 1) rest

/-- The canonical form: addresses strictly rising and below 64, no entry equal to what an unlisted register reads as. -/
def Memory.wf (m : Memory) : Bool := Memory.wfFrom 0 m

/-! ## Acceptance and completion -/

/-- Completion: when `todo` is empty, `DONE(cmd, rxout)` is emitted and `op` becomes none (41_transport.md R109). -/
def finish (s : State) : State :=
  if s.todo.isEmpty then
    match s.op with
    | some i => State.emit { s with op := none } (.done i s.rxout)
    | none => s
  else s

/-- The operands are latched, `rxout` is emptied, `todo` becomes the expansion and `ACCEPT(cmd)` is emitted (R103). -/
def latch (i : Instr) (body : List MicroOp) (s : State) : State :=
  State.emit { s with op := some i, rxout := [], todo := body } (.accept i)

/-- Acceptance of an operation, in IDLE only; an operation whose expansion is empty ends at once (R103, R108). While
an operation is in progress nothing is accepted and nothing changes (R103, 60_exceptions.md R141 X7). -/
def accept (i : Instr) (body : List MicroOp) (s : State) : Result State :=
  if s.todo.isEmpty then .next (finish (latch i body s)) else .next s

/-- Acceptance of an operation that configures the bus: a second one is refused (R104, R126, D18). -/
def acceptConfiguring (i : Instr) (body : List MicroOp) (s : State) : Result State :=
  if s.todo.isEmpty && s.cfgDone then .refused .secondConfiguration else accept i body s

/-- A request to the command encoder alone: its result, and nothing else, changes (30_encoding.md R71, R72); like any
request it is taken in IDLE only (R103). -/
def encodeRequest (result : Byte) (s : State) : Result State :=
  if s.todo.isEmpty then .next { s with encOut := result } else .next s

/-! ## The slave's side of chip-select and of reset -/

/-- `on CS_ASSERT: mode <- CMD` (R60). -/
def Slave.select (sl : Slave) : Slave := { sl with mode := .cmd }

/-- `on CS_DEASSERT: mode <- IDLE_S` (R60). -/
def Slave.deselect (sl : Slave) : Slave := { sl with mode := .idleS }

/-- Reset (70_reset_and_hazards.md R160): all state of the block takes its reset value; the device keeps its registers
(R161) and sees the chip-select line go high (R162); what HOST has yet to present stays HOST's, the pulses after this
one are still to come, and the next free values are fresh ones, so that the engine's first delay after the reset is
bound by nothing before it (40_shift_engine.md R96; log entries 1, 13). -/
def afterReset (s : State) : State :=
  { State.reset with
    hostPort := s.hostPort
    txStream := s.txStream
    slave := s.slave.map Slave.deselect
    rstAfter := s.rstAfter.tail
    draws := s.draws + 1 }

/-- A pulse of rst_n is due (R160, R162). -/
def resetDue (s : State) : Bool := s.rstAfter.head? == some 0

/-- The first pulse to come has come one step nearer. -/
def pulsesNearer : List Nat → List Nat
  | [] => []
  | k :: ks => (k - 1) :: ks

/-- The state in which an agent moves: the next pulse of rst_n has come one step nearer. -/
def resetNearer (s : State) : State := { s with rstAfter := pulsesNearer s.rstAfter }

end Sys2Proof.Machine
end

