-- ==== Sys2Proof/Machine/Operands.lean ====
section
/-! DEFINITION. The operand forms of the operations and what each operation expands to: the lists of micro-operations
of 41_transport.md R104 to R108 and 42_protocol.md R120, R121, R126. -/

namespace Sys2Proof.Machine

/-- `X_CONFIGURE_BUS` (R104). -/
def xConfigureBus : List MicroOp := [.extBusEn, .wrCRcfg]

/-- `X_SELECT_DEVICE` (R105). -/
def xSelectDevice : List MicroOp := [.cs false]

/-- `X_DESELECT_DEVICE` (R106). -/
def xDeselectDevice : List MicroOp := [.cs true]

/-- The loop of TRANSMIT over its bytes (R107, R112 c). -/
def xTransmitLoop : List Byte → List MicroOp
  | [] => []
  | b :: bs => .poll .txe true :: .wrDRb b :: xTransmitLoop bs

/-- The end of every TRANSMIT: the final TXE wait, the wire quiet, and the drain, DR then SR (R107, R57, R166). -/
def xTransmitEnd : List MicroOp := [.poll .txe true, .poll .bsy false, .rdDRdrop, .rdSRdrop]

/-- `X_TRANSMIT(b)` (R107). -/
def xTransmit (bs : List Byte) : List MicroOp := xTransmitLoop bs ++ xTransmitEnd

/-- `X_RECEIVE(n)` (R108). -/
def xReceive : Nat → List MicroOp
  | 0 => []
  | n + 1 => .wrDRb Config.dummyByte :: .poll .rxne true :: .rdDRkeep :: xReceive n

/-- `X_READ_REGISTERS(a, n)` (R120). -/
def xReadRegisters (a : Byte) (n : Nat) : List MicroOp :=
  xSelectDevice ++ xTransmit [encReadByte a] ++ xReceive n ++ xDeselectDevice

/-- `X_WRITE_REGISTER(a, v)` (R121). -/
def xWriteRegister (a v : Byte) : List MicroOp :=
  xSelectDevice ++ xTransmit [encWriteByte a, v] ++ xDeselectDevice

/-- `X_INITIALIZE` (R126). -/
def xInitialize : List MicroOp :=
  [.extPins] ++ xConfigureBus ++ xWriteRegister Config.rangeRegister Config.rangeValue
    ++ xWriteRegister Config.powerRegister Config.resetValue ++ [.setPower .standby]
    ++ xWriteRegister Config.powerRegister Config.measureEnableValue ++ [.setPower .measuring]

/-- The expansion of an operation. The write frame is what WRITE_REGISTER puts on the wire and the read frame what
READ_REGISTERS does (30_encoding.md R75, R76); the encoder alone has none. -/
def expansion : Instr → List MicroOp
  | .configureBus => xConfigureBus
  | .selectDevice => xSelectDevice
  | .deselectDevice => xDeselectDevice
  | .transmit bs => xTransmit bs
  | .receive n => xReceive n.toNat
  | .readRegisters a n => xReadRegisters a n.toNat
  | .writeRegister a v => xWriteRegister a v
  | .initDevice => xInitialize
  | .encRead _ => []
  | .encWrite _ => []
  | .writeFrame a v => xWriteRegister a v
  | .readFrame a n => xReadRegisters a n.toNat

end Sys2Proof.Machine
end

