-- ==== Sys2Proof/Machine/Protocol.lean ====
section
/-! DEFINITION. The meanings of the three protocol operations (42_protocol.md R120, R121, R126). -/

namespace Sys2Proof.Machine

/-- `READ_REGISTERS a, n` (R120). An address of 64 or more goes through the encoder's OR unchecked (30_encoding.md R74,
log entry 5). -/
def execReadRegisters (a n : Byte) (s : State) : Result State :=
  accept (.readRegisters a n) (xReadRegisters a n.toNat) s

/-- `WRITE_REGISTER a, v` (R121). An address of 64 or more goes through the encoder's OR unchecked (R74). -/
def execWriteRegister (a v : Byte) (s : State) : Result State :=
  accept (.writeRegister a v) (xWriteRegister a v) s

/-- `INITIALIZE` (R126): pins, bus, and three register writes in their fixed order; a second one is refused
(41_transport.md R104). -/
def execInitialize (s : State) : Result State := acceptConfiguring .initDevice xInitialize s

end Sys2Proof.Machine
end

