-- ==== Sys2Proof/Machine/Transport.lean ====
section
/-! DEFINITION. The meanings of the five transport operations (41_transport.md R104 to R108). Executing an operation is
its acceptance (R103): the micro-operations it expands to are then performed one a step. -/

namespace Sys2Proof.Machine

/-- `CONFIGURE_BUS` (R104): bus clock enable, then one write of CR_CFG; a second one is refused (D18). -/
def execConfigureBus (s : State) : Result State := acceptConfiguring .configureBus xConfigureBus s

/-- `SELECT_DEVICE` (R105). -/
def execSelectDevice (s : State) : Result State := accept .selectDevice xSelectDevice s

/-- `DESELECT_DEVICE` (R106). -/
def execDeselectDevice (s : State) : Result State := accept .deselectDevice xDeselectDevice s

/-- `TRANSMIT [b0, ..., b(L-1)]` (R107). -/
def execTransmit (bytes : List Byte) (s : State) : Result State := accept (.transmit bytes) (xTransmit bytes) s

/-- `RECEIVE n` (R108); with n = 0 the operation ends in the step that accepts it. -/
def execReceive (n : Byte) (s : State) : Result State := accept (.receive n) (xReceive n.toNat) s

end Sys2Proof.Machine
end

