-- ==== Sys2Proof/Machine/WireRows.lean ====
section
/-! DEFINITION. The meanings of the four wire rows of the opcode table (30_encoding.md R71, R72, R75, R76; log
entry 6). -/

namespace Sys2Proof.Machine

/-- `ENC_READ(a)` (R71): the encoder's result is the command byte of a read. -/
def execEncRead (a : Byte) (s : State) : Result State := encodeRequest (encReadByte a) s

/-- `ENC_WRITE(a)` (R72): the encoder's result is the command byte of a write. -/
def execEncWrite (a : Byte) (s : State) : Result State := encodeRequest (encWriteByte a) s

/-- The write frame (R75): two words on MOSI, sent as one transfer inside one span of CS_n low. -/
def execWriteFrame (a v : Byte) (s : State) : Result State :=
  accept (.writeFrame a v) (xWriteRegister a v) s

/-- The read frame (R76): the command byte and `n` zero words on MOSI inside one span of CS_n low. -/
def execReadFrame (a n : Byte) (s : State) : Result State :=
  accept (.readFrame a n) (xReadRegisters a n.toNat) s

end Sys2Proof.Machine
end

