-- ==== Sys2Proof/Machine/Dispatch.lean ====
section
/-! DEFINITION. One arm per constructor of Instr: the meaning of each row of the opcode table. -/

namespace Sys2Proof.Machine

/-- The meaning of an instruction. -/
def exec (i : Instr) (s : State) : Host.Outcome State Fault Refusal :=
  match i with
  | .configureBus => Sys2Proof.Machine.execConfigureBus s
  | .selectDevice => Sys2Proof.Machine.execSelectDevice s
  | .deselectDevice => Sys2Proof.Machine.execDeselectDevice s
  | .transmit bytes => Sys2Proof.Machine.execTransmit bytes s
  | .receive n => Sys2Proof.Machine.execReceive n s
  | .readRegisters a n => Sys2Proof.Machine.execReadRegisters a n s
  | .writeRegister a v => Sys2Proof.Machine.execWriteRegister a v s
  | .initDevice => Sys2Proof.Machine.execInitialize s
  | .encRead a => Sys2Proof.Machine.execEncRead a s
  | .encWrite a => Sys2Proof.Machine.execEncWrite a s
  | .writeFrame a v => Sys2Proof.Machine.execWriteFrame a v s
  | .readFrame a n => Sys2Proof.Machine.execReadFrame a n s

end Sys2Proof.Machine
end

