-- ==== Sys2Proof/Machine/Engine.lean ====
section
/-! DEFINITION. The shift engine SE (40_shift_engine.md R90 to R92) and the byte on MISO: the reference slave where one
is plugged in (20_memory.md R60), any value otherwise (R61). -/

namespace Sys2Proof.Machine

/-! ## The byte on MISO -/

/-- The pointer goes on to the next register, and past address 63 the next word is refused (R60). -/
def Slave.advance (sl : Slave) : Slave :=
  if sl.ptr = 63 then { sl with mode := .refuseNext } else { sl with ptr := sl.ptr + 1 }

/-- `XFER(o, i)` on the reference slave: it consumes `o` and chooses `i`, where `any` is the arbitrary byte it answers
outside the data phase of a read (R60). -/
def Slave.exchange (o any : Byte) (sl : Slave) : Result (Byte × Slave) :=
  match sl.mode with
  | .idleS => .next (any, sl)
  | .cmd =>
    if cmdMB o then
      .next (any, { sl with ptr := cmdAddr o, mb := cmdMB o, mode := if cmdRW o then .rd else .wr })
    else .refused .slaveNoAutoIncrement
  | .wr => .next (any, Slave.advance { sl with regs := Memory.write sl.regs sl.ptr.toNat o })
  | .rd => .next (Memory.read sl.regs sl.ptr.toNat, Slave.advance sl)
  | .refuseNext => .refused .slavePastLast

/-- The byte received in the word transfer that sends `o`, with the slave after it (R60, R61). -/
def misoExchange (o : Byte) (s : State) : Result (Byte × Option Slave) :=
  match s.slave with
  | none => .next (Config.misoByte s.draws, none)
  | some sl => thenDo (Slave.exchange o (Config.misoByte s.draws) sl) fun r => .next (r.1, some r.2)

/-! ## The two steps of the engine -/

/-- SE-LOAD (R91): the byte of TXBUF goes to SHOUT, TXE and BSY are set. -/
def seLoad (s : State) : State :=
  State.emit { s with shout := s.txbuf, txe := true, bsy := true } (.start s.txbuf)

/-- The receive half of SE-DONE (R92): a free RXBUF takes the byte, an unread one is overrun and RXBUF is any value. -/
def seReceive (i any : Byte) (s : State) : State :=
  if s.rxne then { s with ovr := true, rxbuf := any } else { s with rxbuf := i, rxne := true }

/-- The transmit half of SE-DONE (R92): a waiting byte is taken without a gap, otherwise BSY is cleared. -/
def seContinue (s : State) : State :=
  if s.txe then { s with bsy := false }
  else State.emit { s with shout := s.txbuf, txe := true } (.start s.txbuf)

/-- SE-DONE (R92) of the word transfer that received `i`, with `any` for RXBUF after an overrun. -/
def seDone (i any : Byte) (s : State) : State :=
  seContinue (seReceive i any (State.emit s (.xfer s.shout i)))

/-- The engine has moved: the next free values are the next ones, and it has waited for nothing yet (log entry 1). -/
def engineMoved (s : State) : State := { s with draws := s.draws + 1, waited := 0 }

/-- The engine's step, enabled when `engineEnabled`: SE-DONE while BSY = 1, SE-LOAD otherwise (R91, R92). -/
def engineStep (s : State) : Result State :=
  if s.bsy then
    thenDo (misoExchange s.shout s) fun r =>
      .next (engineMoved (seDone r.1 (Config.overrunByte s.draws) { s with slave := r.2 }))
  else .next (engineMoved (seLoad s))

/-- The engine takes this step: it is enabled and has waited for as many sequencer steps as the schedule says
(R55, R96, R146; log entry 1). -/
def engineDue (s : State) : Bool := engineEnabled s && decide (Config.engineDelay s.draws ≤ s.waited)

/-- The sequencer takes this step: an enabled engine has waited one step more. -/
def engineWaits (s : State) : State := if engineEnabled s then { s with waited := s.waited + 1 } else s

end Sys2Proof.Machine
end

