-- ==== Sys2Proof/Machine/Fetch.lean ====
section
/-! DEFINITION. Taking the next request from the request port (41_transport.md R103, 30_encoding.md R78 to R83). -/

namespace Sys2Proof.Machine

/-- What the port gives an idle sequencer. -/
inductive Fetched where
  /-- Nothing is presented, or a TRANSMIT's bytes are not all offered yet: the block waits (R83, R160). -/
  | nothing
  /-- An operation, and the state in which the port no longer presents it nor the bytes it took. -/
  | got (i : Instr) (s : State)
  /-- The presented item names no operation. -/
  | rejected (r : Refusal)
deriving DecidableEq, Repr

/-- A rejection of the decoder as a refusal of the machine. -/
def refusalOf : Reject → Refusal
  | .reservedSelector op => .reservedSelector op
  | .noCommandByte b => .noCommandByte b
  | .noFrame => .noFrame

/-- Decode the item at the head of the request port. -/
def fetch (s : State) : Fetched :=
  match s.hostPort with
  | [] => .nothing
  | it :: items =>
    match decode it s.txStream with
    | .ok i rest => .got i { s with hostPort := items, txStream := rest }
    | .short => .nothing
    | .reject r => .rejected (refusalOf r)

/-- Put an item on the request port as the next one, with the bytes its TRANSMIT takes. -/
def present (it : Item) (bytes : List Byte) (s : State) : State :=
  { s with hostPort := it :: s.hostPort, txStream := bytes ++ s.txStream }

/-- The zero bytes a table word stands before: those of the TRANSMIT it decodes to, none for the others. -/
def tableStream (nbits w : Nat) : List Byte :=
  match decodeTableWord nbits w with
  | some i => encodeStream i
  | none => []

/-- The state with the instruction of a table word presented next (log entry 15). -/
def presentTableWord (s : State) (nbits w : Nat) : State :=
  match itemOfTableWord nbits w with
  | some it => present it (tableStream nbits w) s
  | none => s

end Sys2Proof.Machine
end

