-- ==== Sys2Proof/Machine/Sequencer.lean ====
section
/-! DEFINITION. The sequencer's step (41_transport.md R101) and the micro-operations it performs (R100, R102). -/

namespace Sys2Proof.Machine

/-- `Cs(level)`: the line takes the level, whatever it was (R105, R106). A slave sees the line once the pins are
configured; before that it counts as not selected (10_state.md R19, U16). -/
def driveCs (level : Bool) (s : State) : State :=
  State.emit
    { s with
      csN := level
      slave := if level then s.slave.map Slave.deselect
               else if s.pinsCfg then s.slave.map Slave.select else s.slave }
    (if level then .csDeassert else .csAssert)

/-- A micro-operation that is no poll, performed once (R100). A poll's own step is `pollStep`. -/
def perform (m : MicroOp) (s : State) : Result State :=
  match m with
  | .extPins => .next (State.emit { s with pinsCfg := true } .extPins)
  | .extBusEn => .next (State.emit { s with busClkEn := true } .extBusEn)
  | .wrCRcfg => wrCR Config.crCfg s
  | .cs level => .next (driveCs level s)
  | .poll _ _ => .next s
  | .wrDRb v => wrDR v s
  | .rdDRkeep => .next { (rdDR s).2 with rxout := s.rxout ++ [(rdDR s).1] }
  | .rdDRdrop => .next (rdDR s).2
  | .rdSRdrop => .next (rdSR .drain s).2
  | .setPower p => .next { s with devPower := p }

/-- One try of `Poll(f, b)`: a read of SR; the poll is over when the image shows the flag at `b`, and stays at the head
of `todo` otherwise (R102). -/
def pollStep (f : Flag) (b : Bool) (rest : List MicroOp) (s : State) : State :=
  if flagOf f (srImage s) = b then finish { (rdSR (.passed f b) s).2 with todo := rest }
  else (rdSR (.failed f b) s).2

/-- SEQ-STEP (R101): the head of `todo` is performed and removed, a poll that must repeat stays, and an operation with
nothing left to do ends (R109). -/
def seqStep (s : State) : Result State :=
  match s.todo with
  | [] => .next s
  | .poll f b :: rest => .next (pollStep f b rest s)
  | m :: rest => thenDo (perform m s) fun t => .next (finish { t with todo := rest })

end Sys2Proof.Machine
end

