-- ==== Sys2Proof/Machine/Cycle.lean ====
section
/-! DEFINITION. Which agent moves, and what it does: the parts `step` is made of (00_scope.md R4, 20_memory.md R55,
60_exceptions.md R146). -/

namespace Sys2Proof.Machine

/-- IDLE: an operation presented on the port is accepted, and with none the block waits (41_transport.md R103,
70_reset_and_hazards.md R160). -/
def idleStep (s : State) : Result State :=
  match fetch s with
  | .nothing => .next s
  | .got i t => exec i t
  | .rejected r => .refused r

/-- The sequencer's turn: SEQ-STEP while an operation is in progress, the request port in IDLE (R101, R103). -/
def sequencerTurn (s : State) : Result State :=
  if s.todo.isEmpty then idleStep s else seqStep s

/-- One step of one agent: the engine when it is due, the sequencer otherwise. -/
def agentStep (s : State) : Result State :=
  if engineDue s then engineStep s else sequencerTurn (engineWaits s)

/-- A step with the reset input: a pulse of rst_n that is due resets the block, whatever it was doing, any number of
times in a run (70_reset_and_hazards.md R160, R162); otherwise an agent moves and the next pulse comes one step
nearer. -/
def cycle (s : State) : Result State :=
  if resetDue s then .next (afterReset s) else agentStep (resetNearer s)

end Sys2Proof.Machine
end

