-- ==== Sys2Proof/Machine/Sample.lean ====
section
/-! DEFINITION. The sample buffer's reading, done outside the block by the application loop (42_protocol.md R125,
20_memory.md R51; 00_scope.md R3 b). Nothing in the machine uses it. -/

namespace Sys2Proof.Machine

/-- `sext_16({high, low})`: two bytes, low byte first, as a signed 16-bit number (R51, R125). -/
def sampleValue (low high : Byte) : Int := (high ++ low : BitVec 16).toInt

/-- Axis `k` of the six bytes of `READ_REGISTERS DATA_START, 6` (R125). -/
def sampleAxis (bytes : List Byte) (k : Nat) : Option Int :=
  match bytes[2 * k]?, bytes[2 * k + 1]? with
  | some low, some high => some (sampleValue low high)
  | _, _ => none

end Sys2Proof.Machine
end

