-- ==== Sys2Proof/Machine/Wire.lean ====
section
/-! DEFINITION. The pins and the waveform of one word (40_shift_engine.md R93, R94, 20_memory.md R49). The machine works
at the level of whole bytes, as R94 allows; these functions say what its events and its state put on the lines. -/

namespace Sys2Proof.Machine

/-- The levels of the three lines after one edge of SCK. -/
structure Edge where
  sck : Bool
  mosi : Bool
  miso : Bool
deriving DecidableEq, Repr

/-- The bits of a byte in the order they are sent: bit 7 first, bit 0 last (R49). -/
def wireBits (b : Byte) : List Bool :=
  [b.getLsbD 7, b.getLsbD 6, b.getLsbD 5, b.getLsbD 4, b.getLsbD 3, b.getLsbD 2, b.getLsbD 1, b.getLsbD 0]

/-- One pulse of SCK: on the falling edge both sides drive their bit, on the rising edge both sample it (R94). -/
def pulse (o i : Bool) : List Edge := [⟨false, o, i⟩, ⟨true, o, i⟩]

/-- The sixteen edges of the word transfer `XFER(o, i)` (R94). -/
def wordWave (o i : Byte) : List Edge :=
  ((wireBits o).zip (wireBits i)).flatMap fun p => pulse p.1 p.2

/-- What a side samples: the levels at the rising edges (R94). -/
def samples (line : Edge → Bool) (wave : List Edge) : List Bool :=
  (wave.filter (fun e => e.sck)).map line

/-- A received byte: the first sampled bit becomes bit 7 (R49). -/
def assemble (bits : List Bool) : Byte :=
  BitVec.ofNat 8 (bits.foldl (fun acc b => 2 * acc + b.toNat) 0)

/-- The level on the CS_n pin: `cs_n` once the pins are configured, undefined before (10_state.md R19, U16). -/
def csPin (s : State) : Option Bool := if s.pinsCfg then some s.csN else none

/-- The level on the SCK pin between word transfers: high once the bus is configured and the pins are, undefined before
(R24, R94). -/
def sckIdlePin (s : State) : Option Bool :=
  if s.pinsCfg && s.cr == Config.crCfg && !s.bsy then some true else none

end Sys2Proof.Machine
end

