-- ==== Sys2Proof/Machine/Trace.lean ====
section
/-! DEFINITION. The two projections of the history (10_state.md R23) and what they leave of an operation's
micro-operations. -/

namespace Sys2Proof.Machine

/-- The bus trace keeps `CS_ASSERT`, `CS_DEASSERT` and `XFER` (R23). -/
def onBus : Event → Bool
  | .csAssert => true
  | .csDeassert => true
  | .xfer _ _ => true
  | .wdr _ => false
  | .rdr _ => false
  | .rsr _ _ => false
  | .wcr _ => false
  | .extPins => false
  | .extBusEn => false
  | .start _ => false
  | .accept _ => false
  | .done _ _ => false

/-- The bus trace of a history (R23). -/
def busTrace (h : List Event) : List Event := h.filter onBus

/-- The entries of the register trace (R23). -/
inductive RegEvent where
  | cs (level : Bool)
  | wdr (v : Byte)
  | rdr (v : Byte)
  | wcr (v : CrWord)
  | extPins
  | extBusEn
  /-- `RSR(F=b)`, the read that ends a poll, with the polled flag alone. -/
  | polled (f : Flag) (b : Bool)
  /-- The drain's read of SR, with its full image. -/
  | drained (image : Byte)
deriving DecidableEq, Repr

/-- What the register trace keeps of an event (R23). -/
def regEvent : Event → Option RegEvent
  | .csAssert => some (.cs false)
  | .csDeassert => some (.cs true)
  | .wdr v => some (.wdr v)
  | .rdr v => some (.rdr v)
  | .rsr _ (.passed f b) => some (.polled f b)
  | .rsr _ (.failed _ _) => none
  | .rsr image .drain => some (.drained image)
  | .wcr v => some (.wcr v)
  | .extPins => some .extPins
  | .extBusEn => some .extBusEn
  | .start _ => none
  | .xfer _ _ => none
  | .accept _ => none
  | .done _ _ => none

/-- The register trace of a history (R23). -/
def registerTrace (h : List Event) : List RegEvent := h.filterMap regEvent

/-- The bytes sent on MOSI, in order: the `o` of every `XFER(o, i)`. -/
def sentBytes (h : List Event) : List Byte :=
  h.filterMap fun e => match e with
    | .xfer o _ => some o
    | _ => none

/-- The bytes written to DR, in order: the `v` of every `WDR(v)`. -/
def writtenBytes (h : List Event) : List Byte :=
  h.filterMap fun e => match e with
    | .wdr v => some v
    | _ => none

/-- The bytes received on MISO, in order: the `i` of every `XFER(o, i)`. -/
def receivedBytes (h : List Event) : List Byte :=
  h.filterMap fun e => match e with
    | .xfer _ i => some i
    | _ => none

/-- The events since the last `ACCEPT`: those of the operation in progress. -/
def sinceAccept (h : List Event) : List Event :=
  h.foldl (fun acc e => match e with
    | .accept _ => []
    | _ => acc ++ [e]) []

/-- A register-trace entry without the values that the environment chooses. -/
inductive Mark where
  | cs (level : Bool)
  | wdr (v : Byte)
  | rdr
  | wcr
  | extPins
  | extBusEn
  | polled (f : Flag) (b : Bool)
  | drained
deriving DecidableEq, Repr

/-- The mark of a register-trace entry. -/
def RegEvent.mark : RegEvent → Mark
  | .cs level => .cs level
  | .wdr v => .wdr v
  | .rdr _ => .rdr
  | .wcr _ => .wcr
  | .extPins => .extPins
  | .extBusEn => .extBusEn
  | .polled f b => .polled f b
  | .drained _ => .drained

/-- The mark a micro-operation leaves in the register trace when it is performed; the ghost leaves none. -/
def MicroOp.mark : MicroOp → Option Mark
  | .extPins => some .extPins
  | .extBusEn => some .extBusEn
  | .wrCRcfg => some .wcr
  | .cs level => some (.cs level)
  | .poll f b => some (.polled f b)
  | .wrDRb v => some (.wdr v)
  | .rdDRkeep => some .rdr
  | .rdDRdrop => some .rdr
  | .rdSRdrop => some .drained
  | .setPower _ => none

/-- The marks of a history: its register trace without the values the environment chooses. -/
def histMarks (h : List Event) : List Mark := (registerTrace h).map RegEvent.mark

/-- The marks of a list of micro-operations. -/
def todoMarks (ms : List MicroOp) : List Mark := ms.filterMap MicroOp.mark

/-- An entry of the bus trace without the byte the environment chooses. -/
inductive BusMark where
  | cs (level : Bool)
  | sent (o : Byte)
deriving DecidableEq, Repr

/-- The bus mark of an event of the bus trace. -/
def Event.busMark : Event → Option BusMark
  | .csAssert => some (.cs false)
  | .csDeassert => some (.cs true)
  | .xfer o _ => some (.sent o)
  | .wdr _ => none
  | .rdr _ => none
  | .rsr _ _ => none
  | .wcr _ => none
  | .extPins => none
  | .extBusEn => none
  | .start _ => none
  | .accept _ => none
  | .done _ _ => none

/-- The bus mark a micro-operation leaves, itself or through the word transfer it starts. -/
def MicroOp.busMark : MicroOp → Option BusMark
  | .extPins => none
  | .extBusEn => none
  | .wrCRcfg => none
  | .cs level => some (.cs level)
  | .poll _ _ => none
  | .wrDRb v => some (.sent v)
  | .rdDRkeep => none
  | .rdDRdrop => none
  | .rdSRdrop => none
  | .setPower _ => none

/-- The bus trace of a history without the received bytes. -/
def busMarks (h : List Event) : List BusMark := h.filterMap Event.busMark

/-- The bus marks of a list of micro-operations. -/
def todoBusMarks (ms : List MicroOp) : List BusMark := ms.filterMap MicroOp.busMark

/-- The bytes written to DR and not yet sent: the one in SHOUT while BSY = 1, then the one in TXBUF while TXE = 0
(10_state.md R11, R13, R27). -/
def inFlight (s : State) : List Byte :=
  (bif s.bsy then [s.shout] else []) ++ (bif s.txe then [] else [s.txbuf])

end Sys2Proof.Machine
end

