-- ==== Sys2Proof/Safety.lean ====
section
/-! DEFINITION. What a safe run of SPICM is: the clean IDLE state (10_state.md R25), the contracts (60_exceptions.md
R141), the phases an operation goes through (41_transport.md R110, R111), and the invariants of a step. -/

namespace Sys2Proof.Machine

/-! ## The clean IDLE state -/

/-- TXE = 1, RXNE = 0, BSY = 0, OVR = 0, ovr_arm = 0 (R25). -/
def cleanFlags (s : State) : Bool := s.txe && !s.rxne && !s.bsy && !s.ovr && !s.ovrArm

/-- IDLE with clean flags (R25). -/
def cleanIdle (s : State) : Bool := s.todo.isEmpty && cleanFlags s

/-- IDLE: nothing left to do, and `cmd_ready` on the command port (R20, D5). -/
def idle (s : State) : Bool := s.todo.isEmpty

/-! ## The contracts (R141) -/

/-- The contract of an instruction in a state: a 6-bit address (X3), one configuration only (X4), and the bus
configured before any transfer (X2). -/
def contract (i : Instr) (s : State) : Bool :=
  match i with
  | .configureBus => !s.cfgDone
  | .selectDevice => true
  | .deselectDevice => true
  | .transmit _ => s.cfgDone
  | .receive _ => s.cfgDone
  | .readRegisters a _ => addrFits a && s.cfgDone
  | .writeRegister a _ => addrFits a && s.cfgDone
  | .initDevice => !s.cfgDone
  | .encRead a => addrFits a
  | .encWrite a => addrFits a
  | .writeFrame a _ => addrFits a && s.cfgDone
  | .readFrame a _ => addrFits a && s.cfgDone

/-- The instructions that configure the bus, once only (R104, R126). -/
def configures : Instr → Bool
  | .configureBus => true
  | .selectDevice => false
  | .deselectDevice => false
  | .transmit _ => false
  | .receive _ => false
  | .readRegisters _ _ => false
  | .writeRegister _ _ => false
  | .initDevice => true
  | .encRead _ => false
  | .encWrite _ => false
  | .writeFrame _ _ => false
  | .readFrame _ _ => false

/-- The encoder's result of a request to the encoder alone; none for an operation (30_encoding.md R71, R72). -/
def encoderResult : Instr → Option Byte
  | .configureBus => none
  | .selectDevice => none
  | .deselectDevice => none
  | .transmit _ => none
  | .receive _ => none
  | .readRegisters _ _ => none
  | .writeRegister _ _ => none
  | .initDevice => none
  | .encRead a => some (encReadByte a)
  | .encWrite a => some (encWriteByte a)
  | .writeFrame _ _ => none
  | .readFrame _ _ => none

/-! ## The phases of an operation -/

/-- Where the flags can stand between two micro-operations of an expansion (R110, R111). -/
inductive Phase where
  /-- Nothing is under way. -/
  | clean
  /-- One word has been written to DR and nothing has been read since. -/
  | oneWord
  /-- At least one word has been written and nothing has been read since. -/
  | sending
  /-- The same, and TXBUF is empty. -/
  | room
  /-- The wire is quiet and a byte is unread. -/
  | quiet
  /-- The first half of the drain is done. -/
  | halfDrained
  /-- One word has been exchanged and its byte is unread. -/
  | received
deriving DecidableEq, Repr

/-- At least one word is in TXBUF, on the wire, or received and unread; an overrun leaves RXNE set (R92, R110). -/
def sendingFlags (s : State) : Bool := !s.ovrArm && (!s.ovr || s.rxne) && (s.rxne || s.bsy || !s.txe)

/-- What the flags are in a phase. -/
def Phase.holds (p : Phase) (s : State) : Bool :=
  match p with
  | .clean => cleanFlags s
  | .oneWord => !s.ovrArm && !s.ovr &&
      ((!s.txe && !s.bsy && !s.rxne) || (s.txe && s.bsy && !s.rxne) || (s.txe && !s.bsy && s.rxne))
  | .sending => sendingFlags s
  | .room => sendingFlags s && s.txe
  | .quiet => s.txe && !s.bsy && s.rxne && !s.ovrArm
  | .halfDrained => s.txe && !s.bsy && !s.rxne && (s.ovrArm == s.ovr)
  | .received => s.txe && !s.bsy && s.rxne && !s.ovr && !s.ovrArm

/-- The phase after a micro-operation; none where no expansion performs it in that phase. -/
def Phase.after (p : Phase) (m : MicroOp) : Option Phase :=
  match p, m with
  | .clean, .extPins => some .clean
  | .clean, .extBusEn => some .clean
  | .clean, .wrCRcfg => some .clean
  | .clean, .cs _ => some .clean
  | .clean, .setPower _ => some .clean
  | .clean, .poll .txe true => some .clean
  | .clean, .poll .bsy false => some .clean
  | .clean, .rdDRdrop => some .clean
  | .clean, .rdSRdrop => some .clean
  | .clean, .wrDRb _ => some .oneWord
  | .oneWord, .poll .txe true => some .room
  | .oneWord, .poll .rxne true => some .received
  | .sending, .poll .txe true => some .room
  | .room, .wrDRb _ => some .sending
  | .room, .poll .bsy false => some .quiet
  | .quiet, .rdDRdrop => some .halfDrained
  | .halfDrained, .rdSRdrop => some .clean
  | .received, .rdDRkeep => some .clean
  | _, _ => none

/-- The phase after a list of micro-operations. -/
def Phase.along (p : Phase) : List MicroOp → Option Phase
  | [] => some p
  | m :: ms =>
    match Phase.after p m with
    | some q => Phase.along q ms
    | none => none

/-! ## Configuration -/

/-- Every CR write still to come finds the bus clock enabled and no configuration done (41_transport.md R104). -/
def cfgOrder : Bool → Bool → List MicroOp → Bool
  | _, _, [] => true
  | _, done, .extBusEn :: ms => cfgOrder true done ms
  | clk, done, .wrCRcfg :: ms => clk && !done && cfgOrder clk true ms
  | clk, done, _ :: ms => cfgOrder clk done ms

/-- Every DR write still to come finds the engine on, where `on` says whether it is on now (40_shift_engine.md R90). -/
def powered : Bool → List MicroOp → Bool
  | _, [] => true
  | _, .wrCRcfg :: ms => powered true ms
  | on, .wrDRb _ :: ms => on && powered on ms
  | on, _ :: ms => powered on ms

/-- The engine is on, or nothing is under way that needs it before it is turned on. -/
def willFinish (s : State) : Bool := seOn s || (cleanFlags s && powered false s.todo)

/-! ## The invariants -/

/-- The device registers of a plugged-in slave are in canonical form. -/
def slaveWf (s : State) : Bool :=
  match s.slave with
  | none => true
  | some sl => Memory.wf sl.regs

/-- The invariant of every step. -/
structure Inv (s : State) : Prop where
  /-- CR is the reset value before the configuration, and CR_CFG with the bus clock enabled after it (R26). -/
  crLegal : if s.cfgDone then s.cr = Config.crCfg ∧ s.busClkEn = true else s.cr = 0
  /-- `ovr_arm` is 0 whenever OVR is 0 (R18). -/
  armNeedsOvr : s.ovrArm = true → s.ovr = true
  /-- There is an operation in progress exactly while there is something to do (R20, R21, R109). -/
  opInProgress : s.op.isSome = !s.todo.isEmpty
  /-- The rest of the operation keeps the order of the configuration. -/
  cfgInOrder : cfgOrder s.busClkEn s.cfgDone s.todo = true
  /-- The flags are those of a phase from which the rest of the operation ends clean (R25, R110, R111). -/
  inPhase : ∃ p : Phase, Phase.holds p s = true ∧ Phase.along p s.todo = some .clean
  /-- The device registers are in canonical form. -/
  memWf : slaveWf s = true

/-- Every byte written to DR since reset has been sent, in order, or is in flight (20_memory.md R55 b, R97). -/
def WireOrder (s : State) : Prop := writtenBytes s.hist = sentBytes s.hist ++ inFlight s

/-- While an operation is in progress: what it has done since its ACCEPT and what it has yet to do make up its whole
expansion, in order (R20, R101). -/
def ProgramOrder (s : State) : Prop :=
  ∀ i, s.op = some i → histMarks (sinceAccept s.hist) ++ todoMarks s.todo = todoMarks (expansion i)

/-- While an operation is in progress: what it has put on the bus, what is in flight, and what it has yet to put there
make up the bus trace of its whole expansion (R62, R110 a). -/
def BusOrder (s : State) : Prop :=
  ∀ i, s.op = some i →
    busMarks (sinceAccept s.hist) ++ (inFlight s).map BusMark.sent ++ todoBusMarks s.todo
      = todoBusMarks (expansion i)

/-- A state in which an operation can be asked for: it meets the invariant, it is IDLE, and no reset is on its way. -/
structure Ready (s : State) : Prop where
  inv : Inv s
  idle : s.todo = []
  noReset : s.rstAfter = []

/-- Executing `i` in `s` accepts it, and after some number of steps it has ended: `todo` is empty, `op` is none, the
history has grown by `ACCEPT`, the events of the operation and `DONE` with the result, and `P` holds of the state and
of those events. -/
def Completes (i : Instr) (s : State) (P : State → List Event → Prop) : Prop :=
  ∃ u, exec i s = .next u ∧
    ∃ k t mid, Sys2Proof.core.run k u = .next t ∧ t.todo = [] ∧ t.op = none ∧
      t.hist = s.hist ++ [.accept i] ++ mid ++ [.done i t.rxout] ∧ P t mid

/-- The refusals a step can answer in a state that meets the invariant: those of the request port and of the reference
slave, never one of the block's own accesses. -/
def outsideRefusal : Refusal → Bool
  | .reservedSelector _ => true
  | .noCommandByte _ => true
  | .noFrame => true
  | .secondConfiguration => true
  | .slaveNoAutoIncrement => true
  | .slavePastLast => true
  | _ => false

end Sys2Proof.Machine
end

