-- ==== Sys2Proof/Certificates/Slice0/Obligations.lean ====
section
/-! DEFINITION. The statements for the provers, each from the numbered rules of spec/. -/

open Sys2Proof Sys2Proof.Machine

/-! ## Encodings -/

/-- Decoding the encoding of a well-formed instruction gives it back, and leaves the rest of the stream: no bit of an
operand is dropped (30_encoding.md sections 1 to 4). That the wire rows are presented beside the command words is the
model's choice (log entry 6). -/
def Obligations.DecodeOfEncodeIsTheInstruction : Prop :=
  ∀ (i : Instr) (rest : List Byte), i.wellFormed = true →
    decode (encode i).1 ((encode i).2 ++ rest) = .ok i rest

/-- R71 and R72: `ENC_READ(a) = a | 0x80 | 0x40` and `ENC_WRITE(a) = a | 0x40`. Within the contract a read's byte has
RW = 1, MB = 1 and ADDR = a, a write's RW = 0, MB = 1 and ADDR = a; there the OR is addition, each encoder is injective,
and a read's byte is never a write's (R84). -/
def Obligations.EncodersGiveTheCommandByte : Prop :=
  (∀ a : Byte, encReadByte a = a ||| 0x80 ||| 0x40 ∧ encReadByte a = a ||| 0xC0 ∧ encWriteByte a = a ||| 0x40) ∧
  (∀ a : Byte, addrFits a = true →
    cmdRW (encReadByte a) = true ∧ cmdMB (encReadByte a) = true ∧ cmdAddrOperand (encReadByte a) = a ∧
    cmdRW (encWriteByte a) = false ∧ cmdMB (encWriteByte a) = true ∧ cmdAddrOperand (encWriteByte a) = a ∧
    (encReadByte a).toNat = a.toNat + 192 ∧ (encWriteByte a).toNat = a.toNat + 64) ∧
  (∀ a b : Byte, addrFits a = true → addrFits b = true →
    (encReadByte a = encReadByte b → a = b) ∧ (encWriteByte a = encWriteByte b → a = b) ∧
      encReadByte a ≠ encWriteByte b) ∧
  encReadByte 0 = 0xC0 ∧ encReadByte 63 = 0xFF ∧ encReadByte 0x32 = 0xF2 ∧
  encWriteByte 0 = 0x40 ∧ encWriteByte 63 = 0x7F ∧ encWriteByte 0x2D = 0x6D

/-- What R74's two OR expressions give on all 8 bits of the operand: register a[5:0] is addressed, a[6] is lost, and
a[7] comes through as the direction bit of a write; a READ_REGISTERS or WRITE_REGISTER with such an address is accepted
like any other. That the model computes here, where the spec also lets a model refuse, is the model's choice (log
entry 5). -/
def Obligations.AddressOutOfRangeIsComputed : Prop :=
  ∀ (a v n : Byte) (s : State),
    cmdAddr (encReadByte a) = a.extractLsb' 0 6 ∧ cmdAddr (encWriteByte a) = a.extractLsb' 0 6 ∧
    cmdMB (encReadByte a) = true ∧ cmdMB (encWriteByte a) = true ∧
    cmdRW (encReadByte a) = true ∧ cmdRW (encWriteByte a) = a.getLsbD 7 ∧
    (s.todo = [] → ∃ t u, exec (.writeRegister a v) s = .next t ∧ .wrDRb (a ||| 0x40) ∈ t.todo ∧
      exec (.readRegisters a n) s = .next u ∧ .wrDRb (a ||| 0xC0) ∈ u.todo)

/-- R80: a reserved selector selects nothing and is refused, and the fields an operation does not use are ignored. -/
def Obligations.SelectorsAndIgnoredFields : Prop :=
  (∀ (op : BitVec 4) (a v n : Byte) (stream : List Byte), op = 0 ∨ 9 ≤ op.toNat →
    decode (.cw (cwMake op a v n)) stream = .reject (.reservedSelector op)) ∧
  (∀ (op : BitVec 4) (a v n : Byte) (items : List Item) (s : State), op = 0 ∨ 9 ≤ op.toNat →
    s.hostPort = .cw (cwMake op a v n) :: items → idleStep s = .refused (.reservedSelector op)) ∧
  (∀ (a v n : Byte) (stream : List Byte),
    decode (.cw (cwMake 1 a v n)) stream = .ok .configureBus stream ∧
    decode (.cw (cwMake 2 a v n)) stream = .ok .selectDevice stream ∧
    decode (.cw (cwMake 3 a v n)) stream = .ok .deselectDevice stream ∧
    decode (.cw (cwMake 4 a v n)) stream = decode (.cw (cwMake 4 0 0 n)) stream ∧
    decode (.cw (cwMake 5 a v n)) stream = .ok (.receive n) stream ∧
    decode (.cw (cwMake 6 a v n)) stream = .ok (.readRegisters a n) stream ∧
    decode (.cw (cwMake 7 a v n)) stream = .ok (.writeRegister a v) stream ∧
    decode (.cw (cwMake 8 a v n)) stream = .ok .initDevice stream)

/-- R83: a TRANSMIT takes its `L` bytes from the stream port, first byte first, at the moment it is accepted, and
latches them; with L = 0 none is taken. -/
def Obligations.TransmitTakesItsBytesFromTheStream : Prop :=
  ∀ (a v n : Byte) (items : List Item) (s : State),
    s.todo = [] → s.hostPort = .cw (cwMake 4 a v n) :: items → n.toNat ≤ s.txStream.length →
    ∃ t, idleStep s = .next t ∧ t.op = some (.transmit (s.txStream.take n.toNat)) ∧
      t.txStream = s.txStream.drop n.toNat ∧ (n = 0 → t.txStream = s.txStream)

/-- Words written out from the encodings of R70, R75, R76, R78 and the vectors V11 and V12 of 95_test_vectors.md decode
to the instructions they stand for: at least one of every family. That a command byte and a frame are presented beside
the command words, and that the byte 11110010 is ENC_READ although READ_FRAME has the same eight bits, are the model's
choices (log entries 6, 7). -/
def Obligations.WordsOfTheSpecDecode : Prop :=
  decode (.cw 0x1000000) [] = .ok .configureBus [] ∧
  decode (.cw 0x1ABCDEF) [] = .ok .configureBus [] ∧
  decode (.cw 0x4000002) [0x6D, 0x08, 0x99] = .ok (.transmit [0x6D, 0x08]) [0x99] ∧
  decode (.cw 0x5000006) [] = .ok (.receive 6) [] ∧
  decode (.cw 0x6320006) [] = .ok (.readRegisters 0x32 6) [] ∧
  decode (.cw 0x72D08FF) [] = .ok (.writeRegister 0x2D 0x08) [] ∧
  decode (.cw 0x8000000) [] = .ok .initDevice [] ∧
  decode (.cmdByte 0b11110010) [] = .ok (.encRead 0x32) [] ∧
  decode (.cmdByte 0b01101101) [] = .ok (.encWrite 0x2D) [] ∧
  decode (.frame [0b01101101, 0b00001000]) [] = .ok (.writeFrame 0x2D 0x08) [] ∧
  decode (.frame [0b11110010, 0, 0, 0, 0, 0, 0]) [] = .ok (.readFrame 0x32 6) []

/-! ## The step and the port -/

/-- A step that is no reset is the turn of one agent, in the state in which the next pulse of rst_n has come nearer: the
engine's step when the engine is due; SEQ-STEP while an operation is in progress, an enabled engine having waited one
step more (R55, R101); and in IDLE the request port. There the instruction the item decodes to is executed, in the
state whose port has lost the item and the bytes it took (R81, R103); with nothing presented, or a TRANSMIT's bytes not
all offered, the block waits (R160); an item that names no operation is refused. How the engine and a reset count their
steps, that the port is a list, and that a TRANSMIT waits for its bytes are the model's choices (log entries 1, 10, 13,
15). -/
def Obligations.StepRunsThePresentedInstruction : Prop :=
  ∀ s r w : State, resetDue s = false → r = { s with rstAfter := pulsesNearer s.rstAfter } → w = engineWaits r →
    (engineDue s = true → step s = engineStep r) ∧
    (engineDue s = false → s.todo ≠ [] → step s = seqStep w) ∧
    (engineDue s = false → s.todo = [] → s.hostPort = [] → step s = .next w) ∧
    ∀ (it : Item) (items : List Item), engineDue s = false → s.todo = [] → s.hostPort = it :: items →
      (∀ (i : Instr) (rest : List Byte), decode it s.txStream = .ok i rest →
        step s = exec i { w with hostPort := items, txStream := rest }) ∧
      (decode it s.txStream = .short → step s = .next w) ∧
      (∀ e, decode it s.txStream = .reject e → step s = .refused (refusalOf e))

/-- The instruction of a table word put on the port is the one the very next step runs, in IDLE with the engine at rest
and no reset on its way; the ports are then as they were. How a table word is presented is the model's choice (log entries 8, 15). -/
def Obligations.PresentedTableWordRunsNext : Prop :=
  ∀ (s : State) (nbits w : Nat) (i : Instr),
    s.todo = [] → engineEnabled s = false → s.rstAfter = [] → decodeTableWord nbits w = some i →
    step (s.withFetchWord nbits w) = exec i s

/-- While an operation is in progress no command is accepted, none is queued, and nothing changes (R103). That executing
is asking for acceptance, and that a request to the encoder or for a frame is treated as a command is, are the model's
(log entries 6, 9). -/
def Obligations.BusySequencerAcceptsNothing : Prop :=
  ∀ (i : Instr) (s : State), s.todo ≠ [] → exec i s = .next s

/-! ## Acceptance: what executing each instruction answers in IDLE -/

/-- CONFIGURE_BUS that has not been done yet is accepted, with its two micro-operations to do (R103, R104). -/
def Obligations.ConfigureBusIsAccepted : Prop :=
  ∀ s : State, s.todo = [] → s.cfgDone = false →
    exec .configureBus s = .next { s with
      op := some .configureBus, rxout := [], todo := [.extBusEn, .wrCRcfg], hist := s.hist ++ [.accept .configureBus] }

/-- SELECT_DEVICE and DESELECT_DEVICE are accepted, each with its one micro-operation to do (R103, R105, R106). -/
def Obligations.SelectAndDeselectAreAccepted : Prop :=
  ∀ s : State, s.todo = [] →
    exec .selectDevice s = .next { s with
      op := some .selectDevice, rxout := [], todo := [.cs false], hist := s.hist ++ [.accept .selectDevice] } ∧
    exec .deselectDevice s = .next { s with
      op := some .deselectDevice, rxout := [], todo := [.cs true], hist := s.hist ++ [.accept .deselectDevice] }

/-- TRANSMIT is accepted with `2L + 4` micro-operations: for each byte a TXE poll and a DR write, then the final TXE
wait, the BSY wait and the drain, DR then SR (R103, R107). -/
def Obligations.TransmitIsAccepted : Prop :=
  ∀ (bs : List Byte) (s : State), s.todo = [] → ∃ t, exec (.transmit bs) s = .next t ∧
    t = { s with
      op := some (.transmit bs), rxout := [], hist := s.hist ++ [.accept (.transmit bs)]
      todo := (bs.flatMap fun b => [.poll .txe true, .wrDRb b])
        ++ [.poll .txe true, .poll .bsy false, .rdDRdrop, .rdSRdrop] } ∧
    t.todo.length = 2 * bs.length + 4

/-- RECEIVE is accepted with `3n` micro-operations, n times the dummy write, the RXNE poll and the DR read; with n = 0
it ends at once, with ACCEPT and DONE and the empty result (R103, R108, R109). -/
def Obligations.ReceiveIsAccepted : Prop :=
  ∀ (n : Byte) (s : State), s.todo = [] →
    (n ≠ 0 → ∃ t, exec (.receive n) s = .next t ∧
      t = { s with
        op := some (.receive n), rxout := [], hist := s.hist ++ [.accept (.receive n)]
        todo := (List.replicate n.toNat [MicroOp.wrDRb 0x00, .poll .rxne true, .rdDRkeep]).flatten } ∧
      t.todo.length = 3 * n.toNat) ∧
    (n = 0 → exec (.receive n) s = .next { s with
      op := none, rxout := [], todo := [], hist := s.hist ++ [.accept (.receive 0), .done (.receive 0) []] })

/-- READ_REGISTERS is accepted with `8 + 3n` micro-operations: select, the one-byte TRANSMIT of the read command byte,
n receive iterations, deselect (R103, R120). For an address of 64 or more the byte is what R74's OR gives (log
entry 5). -/
def Obligations.ReadRegistersIsAccepted : Prop :=
  ∀ (a n : Byte) (s : State), s.todo = [] → ∃ t, exec (.readRegisters a n) s = .next t ∧
    t = { s with
      op := some (.readRegisters a n), rxout := [], hist := s.hist ++ [.accept (.readRegisters a n)]
      todo := [.cs false, .poll .txe true, .wrDRb (a ||| 0xC0), .poll .txe true, .poll .bsy false, .rdDRdrop, .rdSRdrop]
        ++ (List.replicate n.toNat [MicroOp.wrDRb 0x00, .poll .rxne true, .rdDRkeep]).flatten ++ [.cs true] } ∧
    t.todo.length = 8 + 3 * n.toNat

/-- WRITE_REGISTER is accepted with ten micro-operations: select, the two-byte TRANSMIT of the write command byte and
the value, deselect (R103, R121). For an address of 64 or more the byte is what R74's OR gives (log
entry 5). -/
def Obligations.WriteRegisterIsAccepted : Prop :=
  ∀ (a v : Byte) (s : State), s.todo = [] →
    exec (.writeRegister a v) s = .next { s with
      op := some (.writeRegister a v), rxout := [], hist := s.hist ++ [.accept (.writeRegister a v)]
      todo := [.cs false, .poll .txe true, .wrDRb (a ||| 0x40), .poll .txe true, .wrDRb v, .poll .txe true,
        .poll .bsy false, .rdDRdrop, .rdSRdrop, .cs true] }

/-- INITIALIZE that has not been done yet is accepted, with its steps in their fixed order: pins, bus, the range write,
the power-register reset write, the measure-enable write, and the ghost moves after the last two (R103, R126). -/
def Obligations.InitializeIsAccepted : Prop :=
  ∀ s : State, s.todo = [] → s.cfgDone = false → ∃ t, exec .initDevice s = .next t ∧
    t = { s with
      op := some .initDevice, rxout := [], hist := s.hist ++ [.accept .initDevice]
      todo := [.extPins, .extBusEn, .wrCRcfg]
        ++ [.cs false, .poll .txe true, .wrDRb (Config.rangeRegister ||| 0x40), .poll .txe true,
            .wrDRb Config.rangeValue, .poll .txe true, .poll .bsy false, .rdDRdrop, .rdSRdrop, .cs true]
        ++ [.cs false, .poll .txe true, .wrDRb 0x6D, .poll .txe true, .wrDRb 0x00, .poll .txe true,
            .poll .bsy false, .rdDRdrop, .rdSRdrop, .cs true]
        ++ [.setPower .standby]
        ++ [.cs false, .poll .txe true, .wrDRb 0x6D, .poll .txe true, .wrDRb 0x08, .poll .txe true,
            .poll .bsy false, .rdDRdrop, .rdSRdrop, .cs true]
        ++ [.setPower .measuring] } ∧
    t.todo.length = 35

/-- ENC_READ and ENC_WRITE give the encoder's result and change nothing else: no flag, no event, no operation (R71,
R72). That the result stands in `encOut`, and that for an address of 64 or more the OR is computed unchecked, are the
model's choices (log entries 5, 6). -/
def Obligations.EncoderRequestsGiveTheirByte : Prop :=
  ∀ (a : Byte) (s : State), s.todo = [] →
    exec (.encRead a) s = .next { s with encOut := a ||| 0xC0 } ∧
    exec (.encWrite a) s = .next { s with encOut := a ||| 0x40 }

/-- The write frame and the read frame are accepted with the micro-operations that drive them: those of WRITE_REGISTER
and READ_REGISTERS, which the spec says produce them (R75, R76). That the wire rows are requests of their own, and that
for an address of 64 or more the OR is computed unchecked, are the model's choices (log entries 5, 6). -/
def Obligations.FramesAreAccepted : Prop :=
  ∀ (a v n : Byte) (s : State), s.todo = [] →
    exec (.writeFrame a v) s = .next { s with
      op := some (.writeFrame a v), rxout := [], hist := s.hist ++ [.accept (.writeFrame a v)]
      todo := [.cs false, .poll .txe true, .wrDRb (a ||| 0x40), .poll .txe true, .wrDRb v, .poll .txe true,
        .poll .bsy false, .rdDRdrop, .rdSRdrop, .cs true] } ∧
    exec (.readFrame a n) s = .next { s with
      op := some (.readFrame a n), rxout := [], hist := s.hist ++ [.accept (.readFrame a n)]
      todo := [.cs false, .poll .txe true, .wrDRb (a ||| 0xC0), .poll .txe true, .poll .bsy false, .rdDRdrop, .rdSRdrop]
        ++ (List.replicate n.toNat [MicroOp.wrDRb 0x00, .poll .rxne true, .rdDRkeep]).flatten ++ [.cs true] }

/-- A second CONFIGURE_BUS, asked for directly or as part of a second INITIALIZE, has no meaning and is refused (R104,
R126). -/
def Obligations.SecondConfigurationIsRefused : Prop :=
  ∀ s : State, s.todo = [] → s.cfgDone = true →
    exec .configureBus s = .refused .secondConfiguration ∧ exec .initDevice s = .refused .secondConfiguration

/-- The frame of every instruction: executing it changes at most `todo`, `op`, `rxout`, the history and the encoder's
result. Every register, every flag, the chip-select line, the ghost marks and the ports are as before, and so is every
register of a plugged-in device. That the encoder's result stands in `encOut`, and that a request to the encoder alone
leaves the other four as they are, are the model's choices (log entry 6). -/
def Obligations.ExecutionLeavesTheRestUnchanged : Prop :=
  ∀ (i : Instr) (s t : State), exec i s = .next t →
    t = { s with todo := t.todo, op := t.op, rxout := t.rxout, hist := t.hist, encOut := t.encOut } ∧
    (encoderResult i = none → t.encOut = s.encOut) ∧
    (encoderResult i ≠ none → t.todo = s.todo ∧ t.op = s.op ∧ t.rxout = s.rxout ∧ t.hist = s.hist) ∧
    (∀ sl, s.slave = some sl → ∃ sl', t.slave = some sl' ∧
      ∀ a, Memory.read sl'.regs a = Memory.read sl.regs a)

/-! ## The register access primitives -/

/-- R44: RdDR returns RXBUF, arms the overrun clear when OVR = 1, clears RXNE, and changes nothing else; with RXNE = 0
it returns the stale byte and changes no flag but the arming; a second read returns the same byte and finds RXNE 0. -/
def Obligations.ReadOfDR : Prop :=
  ∀ s : State,
    rdDR s = (s.rxbuf, { s with
      ovrArm := if s.ovr then true else s.ovrArm, rxne := false, hist := s.hist ++ [.rdr s.rxbuf] }) ∧
    (s.rxne = false → s.ovr = false → (rdDR s).2 = { s with hist := s.hist ++ [.rdr s.rxbuf] }) ∧
    (rdDR (rdDR s).2).1 = s.rxbuf ∧ (rdDR s).2.rxne = false

/-- R45: WrDR with TXE = 1 puts the byte in TXBUF, clears TXE, and changes nothing else, and with the engine on and
quiet it enables SE-LOAD; with TXE = 0 it is refused. -/
def Obligations.WriteOfDR : Prop :=
  ∀ (v : Byte) (s : State),
    (s.txe = true → wrDR v s = .next { s with txbuf := v, txe := false, hist := s.hist ++ [.wdr v] }) ∧
    (∀ t, wrDR v s = .next t → seOn s = true → s.bsy = false → loadEnabled t = true) ∧
    (s.txe = false → wrDR v s = .refused .drWriteWhileFull)

/-- R46: RdSR returns the image from before any clearing; with ovr_arm = 1 it clears OVR and ovr_arm, otherwise it
clears nothing; it changes nothing else. So the order of the drain's two reads matters (R57, R164): DR then SR clears
a pending overrun, and the image read still shows it, while SR then DR leaves it pending. -/
def Obligations.ReadOfSR : Prop :=
  ∀ (use : SrUse) (s : State),
    (rdSR use s).1 = BitVec.ofBool s.bsy ++ BitVec.ofBool s.ovr ++ 0#4 ++ BitVec.ofBool s.txe ++ BitVec.ofBool s.rxne ∧
    (s.ovrArm = true → (rdSR use s).2 = { s with
      ovr := false, ovrArm := false, hist := s.hist ++ [.rsr (srImage s) use] }) ∧
    (s.ovrArm = false → (rdSR use s).2 = { s with hist := s.hist ++ [.rsr (srImage s) use] }) ∧
    (s.ovr = true →
      (rdSR use (rdDR s).2).2.ovr = false ∧ (rdSR use (rdDR s).2).2.ovrArm = false ∧
      (rdSR use (rdDR s).2).2.rxne = false ∧ ((rdSR use (rdDR s).2).1).getLsbD 6 = true) ∧
    (s.ovr = true → s.ovrArm = false →
      (rdDR (rdSR use s).2).2.ovr = true ∧ (rdDR (rdSR use s).2).2.ovrArm = true)

/-- WrCR of CR_CFG with cfg_done = 0 writes CR and cfg_done and nothing else, and with the bus clock enabled it turns the
engine on; any other value is refused, and a read of CR is not defined (R47, R26). That WrCR itself refuses a second
write, and that the read of CR is made by address, are the model's (log entries 11, 23). -/
def Obligations.WriteOfCR : Prop :=
  ∀ s : State,
    (s.cfgDone = false → wrCR 0x034F s = .next { s with
      cr := 0x034F, cfgDone := true, hist := s.hist ++ [.wcr 0x034F] }) ∧
    (∀ t, s.busClkEn = true → wrCR 0x034F s = .next t → seOn t = true) ∧
    (∀ v, v ≠ 0x034F → wrCR v s = .refused (.crOtherValue v)) ∧
    (s.cfgDone = true → wrCR 0x034F s = .refused .secondConfiguration) ∧
    busRead (pregAddress .cr) s = .refused .crRead

/-- The map of the peripheral register space (20_memory.md section 1, R7, R41): CR at SPI_BASE + 0x00, SR at 0x08, DR
at 0x0C, each access the primitive of its register, and no register at any other address. That an access is made by
address, that a DR write takes the low byte, and that an access where there is no register faults are the model's
choices (log entry 23). -/
def Obligations.PeripheralRegisterMap : Prop :=
  ∀ (s : State) (v : CrWord),
    busRead (Config.spiBase + 0x0C) s = .next (rdDR s) ∧
    busRead (Config.spiBase + 0x08) s = .next (rdSR .drain s) ∧
    busWrite (Config.spiBase + 0x0C) v s = wrDR (v.setWidth 8) s ∧
    busWrite (Config.spiBase + 0x00) v s = wrCR v s ∧
    busWrite (Config.spiBase + 0x08) v s = .refused .srWrite ∧
    (∀ a, a ≠ Config.spiBase + 0x00 → a ≠ Config.spiBase + 0x08 → a ≠ Config.spiBase + 0x0C →
      busRead a s = .fault (.noSuchRegister a) ∧ busWrite a v s = .fault (.noSuchRegister a))

/-- The fields of the two readable registers. CR after CONFIGURE_BUS (R14): each field as the table of 10_state.md
section 3 gives it, divisor 4. The image of SR (R15): bit 7 = BSY, bit 6 = OVR, bits 5:2 = 0, bit 1 = TXE, bit 0 =
RXNE, and a poll takes the flag it waits for (R102). -/
def Obligations.ControlAndStatusFields : Prop :=
  (Config.crCfg = 0x034F ∧
    crCPHA Config.crCfg = true ∧ crCPOL Config.crCfg = true ∧ crMSTR Config.crCfg = true ∧
    crBR Config.crCfg = 1 ∧ sckDivisor Config.crCfg = 4 ∧ crSPE Config.crCfg = true ∧
    crLSBFIRST Config.crCfg = false ∧ crSSI Config.crCfg = true ∧ crSSM Config.crCfg = true ∧
    crRXONLY Config.crCfg = false ∧ crDFF Config.crCfg = false ∧ crReserved Config.crCfg = 0 ∧
    crBIDIMODE Config.crCfg = false) ∧
  ∀ s : State,
    (srImage s).getLsbD 7 = s.bsy ∧ (srImage s).getLsbD 6 = s.ovr ∧ (srImage s).extractLsb' 2 4 = 0 ∧
    (srImage s).getLsbD 1 = s.txe ∧ (srImage s).getLsbD 0 = s.rxne ∧
    flagOf .txe (srImage s) = s.txe ∧ flagOf .rxne (srImage s) = s.rxne ∧ flagOf .bsy (srImage s) = s.bsy

/-! ## The micro-operations -/

/-- What each micro-operation of R100 but the poll does (the poll is `PollPassesOrSpins`), when it is the head of `todo`
and more is left to do: exactly the state the table gives, with the head removed. `Cs` also moves a plugged-in slave
(R60): `Cs(0)` selects it when the pins are configured and leaves it as it is otherwise, `Cs(1)` deselects it in every
state. That a slave sees the line so is the model's reading of R19 (log entries 12, 16). -/
def Obligations.MicroOperationsOfTheTable : Prop :=
  ∀ (s : State) (m : MicroOp) (rest : List MicroOp), rest ≠ [] →
    (s.todo = .extPins :: rest → seqStep s = .next { s with
      todo := rest, pinsCfg := true, hist := s.hist ++ [.extPins] }) ∧
    (s.todo = .extBusEn :: rest → seqStep s = .next { s with
      todo := rest, busClkEn := true, hist := s.hist ++ [.extBusEn] }) ∧
    (s.todo = .wrCRcfg :: rest → s.cfgDone = false → seqStep s = .next { s with
      todo := rest, cr := 0x034F, cfgDone := true, hist := s.hist ++ [.wcr 0x034F] }) ∧
    (s.todo = .cs false :: rest → seqStep s = .next { s with
      todo := rest, csN := false, hist := s.hist ++ [.csAssert]
      slave := if s.pinsCfg then s.slave.map Slave.select else s.slave }) ∧
    (s.todo = .cs true :: rest → seqStep s = .next { s with
      todo := rest, csN := true, hist := s.hist ++ [.csDeassert], slave := s.slave.map Slave.deselect }) ∧
    (∀ v, s.todo = .wrDRb v :: rest → s.txe = true → seqStep s = .next { s with
      todo := rest, txbuf := v, txe := false, hist := s.hist ++ [.wdr v] }) ∧
    (s.todo = .rdDRkeep :: rest → seqStep s = .next { s with
      todo := rest, rxout := s.rxout ++ [s.rxbuf], rxne := false, ovrArm := s.ovrArm || s.ovr
      hist := s.hist ++ [.rdr s.rxbuf] }) ∧
    (s.todo = .rdDRdrop :: rest → seqStep s = .next { s with
      todo := rest, rxne := false, ovrArm := s.ovrArm || s.ovr, hist := s.hist ++ [.rdr s.rxbuf] }) ∧
    (s.todo = .rdSRdrop :: rest → seqStep s = .next { s with
      todo := rest, ovr := s.ovr && !s.ovrArm, ovrArm := false, hist := s.hist ++ [.rsr (srImage s) .drain] }) ∧
    (∀ p, s.todo = .setPower p :: rest → seqStep s = .next { s with todo := rest, devPower := p }) ∧
    (s.todo = m :: rest → ∀ t, seqStep s = .next t → t.op = s.op)

/-- One try of a poll (R102): it reads SR, with the effects of RdSR; it is over when the image shows the flag at the
wanted value, and stays at the head of `todo` otherwise. -/
def Obligations.PollPassesOrSpins : Prop :=
  ∀ (s : State) (f : Flag) (b : Bool) (rest : List MicroOp), s.todo = .poll f b :: rest → rest ≠ [] →
    (flagOf f (srImage s) = b → seqStep s = .next { s with
      todo := rest, ovr := s.ovr && !s.ovrArm, ovrArm := false
      hist := s.hist ++ [.rsr (srImage s) (.passed f b)] }) ∧
    (flagOf f (srImage s) ≠ b → seqStep s = .next { s with
      ovr := s.ovr && !s.ovrArm, ovrArm := false, hist := s.hist ++ [.rsr (srImage s) (.failed f b)] })

/-- Completion (R101, R109): the micro-operation that leaves `todo` empty ends the operation, with DONE and the result,
and `op` becomes none. -/
def Obligations.LastMicroOperationCompletes : Prop :=
  ∀ (s : State) (m : MicroOp) (i : Instr), s.todo = [m] → s.op = some i →
    (∀ u, (∀ f b, m ≠ .poll f b) → perform m s = .next u →
      seqStep s = .next { u with todo := [], op := none, hist := u.hist ++ [.done i u.rxout] }) ∧
    (∀ f b, m = .poll f b → flagOf f (srImage s) = b → seqStep s = .next { s with
      todo := [], op := none, ovr := s.ovr && !s.ovrArm, ovrArm := false
      hist := s.hist ++ [.rsr (srImage s) (.passed f b), .done i s.rxout] })

/-! ## The shift engine -/

/-- SE-LOAD is enabled when SE_on, TXE = 0 and BSY = 0; the engine's step is then exactly SE-LOAD (R91). The two
counters `draws` and `waited` that move with it are the model's own (log entry 1). -/
def Obligations.EngineLoads : Prop :=
  ∀ s : State,
    (loadEnabled s = true ↔ seOn s = true ∧ s.txe = false ∧ s.bsy = false) ∧
    (loadEnabled s = true → engineStep s = .next { s with
      shout := s.txbuf, txe := true, bsy := true, hist := s.hist ++ [.start s.txbuf]
      draws := s.draws + 1, waited := 0 })

/-- SE-DONE is enabled when SE_on and BSY = 1; the engine's step is then exactly SE-DONE with the byte `i` the other
side gave: RXBUF takes it when RXNE = 0, an overrun is recorded and RXBUF is any value when RXNE = 1, and a waiting
byte is taken without a gap (R92). An exchange that a plugged-in slave refuses stops the step. The two counters that
move with it, and the free value for any value, are the model's own (log entries 1, 3). -/
def Obligations.EngineCompletesAWord : Prop :=
  ∀ (s : State) (i : Byte) (sl : Option Slave) (e : Refusal),
    (doneEnabled s = true ↔ seOn s = true ∧ s.bsy = true) ∧
    (doneEnabled s = true → misoExchange s.shout s = .next (i, sl) → engineStep s = .next { s with
      rxbuf := if s.rxne then Config.overrunByte s.draws else i
      rxne := true
      ovr := if s.rxne then true else s.ovr
      shout := if s.txe then s.shout else s.txbuf
      txe := true
      bsy := if s.txe then false else true
      hist := s.hist ++ ([.xfer s.shout i] ++ if s.txe then [] else [.start s.txbuf])
      slave := sl
      draws := s.draws + 1
      waited := 0 }) ∧
    (doneEnabled s = true → misoExchange s.shout s = .refused e → engineStep s = .refused e)

/-- R28, R90: with CR at one of its two values SE_on is the bus clock enable and CR = CR_CFG, and while it is off the
engine has no step. -/
def Obligations.EngineIsOffUntilConfigured : Prop :=
  ∀ s : State,
    (seOn s = true ↔ s.busClkEn = true ∧ crSPE s.cr = true ∧ crMSTR s.cr = true) ∧
    (s.cr = 0x0000 ∨ s.cr = 0x034F → (seOn s = true ↔ s.busClkEn = true ∧ s.cr = 0x034F)) ∧
    (seOn s = false → engineEnabled s = false ∧ engineDue s = false)

/-- A flag a poll has seen stays until the sequencer's own next access (R56): no engine step clears TXE or RXNE, and
with TXE = 1 and BSY = 0 the engine has no step at all. -/
def Obligations.SeenFlagsAreStable : Prop :=
  ∀ s t : State, engineEnabled s = true → engineStep s = .next t →
    (s.txe = true → t.txe = true) ∧ (s.rxne = true → t.rxne = true) ∧ (s.ovr = true → t.ovr = true) ∧
    t.ovrArm = s.ovrArm ∧ ¬ (s.txe = true ∧ s.bsy = false) ∧
    t.todo = s.todo ∧ t.op = s.op ∧ t.rxout = s.rxout ∧ t.csN = s.csN ∧ t.cr = s.cr

/-- The byte on MISO. With no slave plugged in it is the environment's, whatever is sent (R61); a plugged-in reference
slave consumes the word and chooses the byte, step by step as R60 gives it. -/
def Obligations.MisoByteAndTheReferenceSlave : Prop :=
  ∀ (o x : Byte) (s : State) (sl : Slave),
    (s.slave = none → misoExchange o s = .next (Config.misoByte s.draws, none)) ∧
    (s.slave = some sl → ∀ i sl', Slave.exchange o (Config.misoByte s.draws) sl = .next (i, sl') →
      misoExchange o s = .next (i, some sl')) ∧
    Slave.select sl = { sl with mode := .cmd } ∧ Slave.deselect sl = { sl with mode := .idleS } ∧
    (sl.mode = .idleS → Slave.exchange o x sl = .next (x, sl)) ∧
    (sl.mode = .cmd → o.getLsbD 6 = false → Slave.exchange o x sl = .refused .slaveNoAutoIncrement) ∧
    (sl.mode = .cmd → o.getLsbD 6 = true → Slave.exchange o x sl = .next (x, { sl with
      ptr := o.extractLsb' 0 6, mb := true, mode := if o.getLsbD 7 then .rd else .wr })) ∧
    (sl.mode = .wr → Slave.exchange o x sl = .next (x, if sl.ptr = 63
      then { sl with regs := Memory.write sl.regs sl.ptr.toNat o, mode := .refuseNext }
      else { sl with regs := Memory.write sl.regs sl.ptr.toNat o, ptr := sl.ptr + 1 })) ∧
    (sl.mode = .rd → Slave.exchange o x sl = .next (Memory.read sl.regs sl.ptr.toNat, if sl.ptr = 63
      then { sl with mode := .refuseNext } else { sl with ptr := sl.ptr + 1 })) ∧
    (sl.mode = .refuseNext → Slave.exchange o x sl = .refused .slavePastLast)

/-- A data word of a write frame is stored in the register the slave's pointer names, every other register reads as
before, and the canonical form is kept; outside the data phase of a write no register changes (R60). -/
def Obligations.SlaveStoresOneRegister : Prop :=
  ∀ (o x i : Byte) (sl sl' : Slave), Memory.wf sl.regs = true → Slave.exchange o x sl = .next (i, sl') →
    Memory.wf sl'.regs = true ∧
    (sl.mode = .wr → Memory.read sl'.regs sl.ptr.toNat = o ∧
      ∀ a, a ≠ sl.ptr.toNat → Memory.read sl'.regs a = Memory.read sl.regs a) ∧
    (sl.mode ≠ .wr → sl'.regs = sl.regs)

/-! ## Reset -/

/-- The state after reset (R24): the values of the table of 10_state.md section 9. The two pins that table speaks of, in
any state: before the pins are configured neither has a level; after it CS_n has the level `cs_n` (R19), and SCK idles
high once the bus is configured too (R24, R94). -/
def Obligations.ResetValuesOfTheTable : Prop :=
  (State.reset.cr = 0x0000 ∧ State.reset.txe = true ∧ State.reset.rxne = false ∧ State.reset.bsy = false ∧
    State.reset.ovr = false ∧ State.reset.ovrArm = false ∧ srImage State.reset = 0x02 ∧
    State.reset.txbuf = 0x00 ∧ State.reset.rxbuf = 0x00 ∧ State.reset.shout = 0x00 ∧
    State.reset.csN = true ∧ State.reset.todo = [] ∧ State.reset.op = none ∧ State.reset.rxout = [] ∧
    State.reset.busClkEn = false ∧ State.reset.pinsCfg = false ∧ State.reset.cfgDone = false ∧
    State.reset.devPower = .uninitialized ∧ State.reset.hist = [] ∧
    csPin State.reset = none ∧ sckIdlePin State.reset = none) ∧
  ∀ s : State,
    (s.pinsCfg = false → csPin s = none ∧ sckIdlePin s = none) ∧
    (s.pinsCfg = true → csPin s = some s.csN) ∧
    (s.pinsCfg = true → s.cr = 0x034F → s.bsy = false → sckIdlePin s = some true)

/-- A reset that is due (R160, R161, R162) gives every piece of the block's state its reset value, whatever the block
was doing, and abandons the operation without DONE; it leaves the device's registers as they were, and the pulses after
it are still to come. That it takes the step for itself, keeps what HOST has yet to present and deselects the slave,
and that the next free values are fresh ones, are the model's choices (log entries 1, 13). -/
def Obligations.ResetAbandonsEverything : Prop :=
  ∀ (s : State) (ks : List Nat), s.rstAfter = 0 :: ks → ∃ t, step s = .next t ∧
    t = { State.reset with
      hostPort := s.hostPort, txStream := s.txStream, slave := s.slave.map Slave.deselect, rstAfter := ks
      draws := s.draws + 1 } ∧
    ∀ sl, s.slave = some sl → ∃ sl', t.slave = some sl' ∧ sl'.regs = sl.regs

/-! ## Invariants of the step -/

/-- The state after reset meets the invariants. -/
def Obligations.ResetMeetsTheInvariants : Prop :=
  Inv State.reset ∧ WireOrder State.reset ∧ ProgramOrder State.reset ∧ BusOrder State.reset

/-- Every step keeps the invariant: CR has one of its two values (R26), ovr_arm needs OVR (R18), an operation is in
progress exactly while something is left to do (R20), the flags are those of a phase from which the operation ends
clean (R25, R110, R111), and the device's registers stay in canonical form. So whenever a step ends in IDLE the flags
are clean. -/
def Obligations.StepKeepsTheInvariant : Prop :=
  ∀ s t : State, Inv s → step s = .next t →
    Inv t ∧ (t.todo = [] → t.txe = true ∧ t.rxne = false ∧ t.bsy = false ∧ t.ovr = false ∧ t.ovrArm = false)

/-- Bytes are sent in the order written, none lost and none invented (R55 b, R97): every step keeps "the bytes written
to DR are the bytes sent on MOSI followed by the bytes in flight". -/
def Obligations.StepKeepsTheWireOrder : Prop :=
  ∀ s t : State, WireOrder s → step s = .next t → WireOrder t

/-- Every step keeps "what the operation in progress has done and what it has yet to do make up its expansion, in
order" (R20, R55, R101). -/
def Obligations.StepKeepsTheProgramOrder : Prop :=
  ∀ s t : State, ProgramOrder s → step s = .next t → ProgramOrder t

/-- Every step keeps "what the operation in progress has put on the bus, what is in flight, and what it has yet to put
there make up the bus trace of its expansion": chip-select moves only while no word is in flight (R62, R110 a). -/
def Obligations.StepKeepsTheBusOrder : Prop :=
  ∀ s t : State, Inv s → BusOrder s → step s = .next t → BusOrder t

/-- R140: the block raises no exception: no step faults, in any state. -/
def Obligations.StepNeverFaults : Prop :=
  ∀ (s : State) (e : Fault), step s ≠ .fault e

/-- From a state that meets the invariant a step refuses only what the outside brings: inside an operation only what the
reference slave refuses, and in IDLE only a request that names no operation or a second configuration. The block's own
accesses are never refused: no DR write finds TXE = 0 (R110 a, R111 a), and no CR write has another value or is a
second one (R26, R104). -/
def Obligations.OnlyTheOutsideIsRefused : Prop :=
  ∀ (s : State) (e : Refusal), Inv s → step s = .refused e →
    outsideRefusal e = true ∧
    (s.todo ≠ [] → e = .slaveNoAutoIncrement ∨ e = .slavePastLast) ∧
    (s.todo = [] → (∃ op, e = .reservedSelector op) ∨ (∃ b, e = .noCommandByte b) ∨ e = .noFrame ∨
      e = .secondConfiguration)

/-- Who writes what, apart from reset. Only the engine's steps write RXBUF, SHOUT and BSY, and set TXE, RXNE and OVR
(R12, R13, R17). Only WrDR writes TXBUF and clears TXE (R11, R17); only a DR read clears RXNE and, with OVR = 1, sets
ovr_arm; only an SR read, with ovr_arm = 1, clears OVR and ovr_arm (R17, R18). Only WrCR writes CR and cfg_done (R14,
R22), only Cs cs_n (R19), only their micro-operations the ghost marks and only SetPower dev_power (R22, R124), only a
kept DR read and acceptance rxout (R21), and only acceptance and completion op. A plugged-in slave moves only with the
engine or the line, and the ports only in IDLE. That the encoder's result changes in IDLE only is the model's choice
(log entry 6). -/
def Obligations.OnlyTheirWritersChangeThem : Prop :=
  ∀ s t : State, resetDue s = false → step s = .next t →
    (t.rxbuf ≠ s.rxbuf ∨ t.shout ≠ s.shout ∨ t.bsy ≠ s.bsy → engineDue s = true) ∧
    (s.txe = false → t.txe = true → engineDue s = true) ∧
    (s.rxne = false → t.rxne = true → engineDue s = true) ∧
    (s.ovr = false → t.ovr = true → engineDue s = true) ∧
    (t.txbuf ≠ s.txbuf ∨ (s.txe = true ∧ t.txe = false) → ∃ v, s.todo.head? = some (.wrDRb v)) ∧
    (s.rxne = true → t.rxne = false → s.todo.head? = some .rdDRkeep ∨ s.todo.head? = some .rdDRdrop) ∧
    (s.ovrArm = false → t.ovrArm = true →
      s.ovr = true ∧ (s.todo.head? = some .rdDRkeep ∨ s.todo.head? = some .rdDRdrop)) ∧
    ((s.ovr = true ∧ t.ovr = false) ∨ (s.ovrArm = true ∧ t.ovrArm = false) →
      s.ovrArm = true ∧ (s.todo.head? = some .rdSRdrop ∨ ∃ f b, s.todo.head? = some (.poll f b))) ∧
    (t.cr ≠ s.cr ∨ t.cfgDone ≠ s.cfgDone → s.todo.head? = some .wrCRcfg) ∧
    (t.csN ≠ s.csN → ∃ l, s.todo.head? = some (.cs l)) ∧
    (t.busClkEn ≠ s.busClkEn → s.todo.head? = some .extBusEn) ∧
    (t.pinsCfg ≠ s.pinsCfg → s.todo.head? = some .extPins) ∧
    (t.devPower ≠ s.devPower → ∃ p, s.todo.head? = some (.setPower p)) ∧
    (t.rxout ≠ s.rxout → s.todo.head? = some .rdDRkeep ∨ s.todo = []) ∧
    (t.op ≠ s.op → s.todo = [] ∨ t.todo = []) ∧
    (t.slave ≠ s.slave → engineDue s = true ∨ ∃ l, s.todo.head? = some (.cs l)) ∧
    (t.hostPort ≠ s.hostPort ∨ t.txStream ≠ s.txStream → s.todo = []) ∧
    (t.encOut ≠ s.encOut → s.todo = [])

/-- The operands stay latched until the operation ends, and it ends with DONE and its result (R21, R103, R109); the
history only grows (R23). -/
def Obligations.OperandsStayLatchedUntilDone : Prop :=
  ∀ (s t : State), resetDue s = false → step s = .next t →
    s.hist <+: t.hist ∧
    (∀ i, s.op = some i → s.todo ≠ [] →
      (t.op = some i ∧ t.todo ≠ []) ∨
      (t.op = none ∧ t.todo = [] ∧ t.hist.getLast? = some (.done i t.rxout)))

/-! ## Whole operations, in every schedule -/

/-- Every operation ends (R96, R112, R142): accepted in IDLE from a state that meets the invariant, with no slave plugged
in and with the bus configured or configured by the operation itself before its first DR write, it runs to its end in every schedule the
engine's fairness allows (log entry 1), in the clean IDLE state, having performed its whole expansion in order, on the
registers and on the bus. That this holds for an address of 64 or more too, whose OR is computed, is the model's choice
(log entry 5). -/
def Obligations.EveryOperationEnds : Prop :=
  ∀ (i : Instr) (s : State), Ready s → s.slave = none → encoderResult i = none →
    (configures i = true → s.cfgDone = false) → powered (seOn s) (expansion i) = true →
    Completes i s fun t mid =>
      cleanFlags t = true ∧ histMarks mid = todoMarks (expansion i) ∧ busMarks mid = todoBusMarks (expansion i)

/-- R90, R142: an operation that writes a byte to DR while the engine is off never ends: it stays in progress for ever
and nothing is sent. That the model hangs here, where U2 also lets a model refuse, is log entry 18. -/
def Obligations.TransferBeforeConfigurationHangs : Prop :=
  ∀ (i : Instr) (s : State), Ready s → seOn s = false → encoderResult i = none → configures i = false →
    powered false (expansion i) = false →
    ∃ u, exec i s = .next u ∧ ∀ k, ∃ t, Sys2Proof.core.run k u = .next t ∧ t.todo ≠ [] ∧ t.op = some i ∧
      sentBytes t.hist = sentBytes s.hist

/-- CONFIGURE_BUS (R104): two steps after its acceptance it has ended, with the bus clock enabled and CR = 0x034F, and
nothing else has changed. -/
def Obligations.ConfigureBusRuns : Prop :=
  ∀ s : State, s.todo = [] → cleanFlags s = true → s.rstAfter = [] → s.cfgDone = false →
    ∃ u, exec .configureBus s = .next u ∧ Sys2Proof.core.run 2 u = .next { s with
      busClkEn := true, cr := 0x034F, cfgDone := true, op := none, rxout := []
      hist := s.hist ++ [.accept .configureBus, .extBusEn, .wcr 0x034F, .done .configureBus []] }

/-- SELECT_DEVICE and DESELECT_DEVICE (R105, R106): one step after the acceptance the line has the level, whatever it
was, the event is emitted, and no flag has changed. A plugged-in slave (R60) is selected when the pins are configured
and left as it is otherwise, and is deselected in every state. That a slave sees the line so is the model's reading of
R19 (log entries 12, 16). -/
def Obligations.SelectAndDeselectRun : Prop :=
  ∀ s : State, s.todo = [] → cleanFlags s = true → s.rstAfter = [] →
    (∃ u, exec .selectDevice s = .next u ∧ Sys2Proof.core.run 1 u = .next { s with
      csN := false, slave := if s.pinsCfg then s.slave.map Slave.select else s.slave, op := none, rxout := []
      hist := s.hist ++ [.accept .selectDevice, .csAssert, .done .selectDevice []] }) ∧
    (∃ u, exec .deselectDevice s = .next u ∧ Sys2Proof.core.run 1 u = .next { s with
      csN := true, slave := s.slave.map Slave.deselect, op := none, rxout := []
      hist := s.hist ++ [.accept .deselectDevice, .csDeassert, .done .deselectDevice []] })

/-- TRANSMIT (R107, R110): all its bytes go out in order, each exactly once; the two final polls and the drain follow,
the drain finding an overrun exactly for two bytes or more; nothing is returned and the line is not touched. No slave
is plugged in, so the received bytes are any. -/
def Obligations.TransmitRuns : Prop :=
  ∀ (bs : List Byte) (s : State), Ready s → s.slave = none → seOn s = true →
    Completes (.transmit bs) s fun t mid =>
      cleanFlags t = true ∧ t.csN = s.csN ∧ t.rxout = [] ∧
      (∃ is : List Byte, is.length = bs.length ∧ busTrace mid = List.zipWith Event.xfer bs is) ∧
      ∃ x, registerTrace mid = (bs.flatMap fun b => [.polled .txe true, .wdr b])
        ++ [.polled .txe true, .polled .bsy false, .rdr x, .drained (if 2 ≤ bs.length then 0x42 else 0x02)]

/-- RECEIVE (R108, R111): exactly n word transfers, each of a zero byte, each received byte read before the next is
started, and the result is the received bytes in order. No slave is plugged in, so the received bytes are any. -/
def Obligations.ReceiveRuns : Prop :=
  ∀ (n : Byte) (s : State), Ready s → s.slave = none → seOn s = true →
    Completes (.receive n) s fun t mid =>
      cleanFlags t = true ∧ t.csN = s.csN ∧
      ∃ is : List Byte, is.length = n.toNat ∧ t.rxout = is ∧ busTrace mid = is.map (Event.xfer 0x00) ∧
        registerTrace mid = is.flatMap fun d => [.wdr 0x00, .polled .rxne true, .rdr d]

/-- READ_REGISTERS and the read frame (R76, R120): one span of chip-select around one command byte and n zero words,
and the result is the n bytes received after the command byte. No slave is plugged in (with one see
`ReadRegistersReturnsTheSlavesBytes`). That the frame is a request of its own, and that for an address of 64 or more
the OR is computed unchecked, are the model's choices (log entries 5, 6). -/
def Obligations.ReadRegistersRuns : Prop :=
  ∀ (a n : Byte) (s : State) (i : Instr), Ready s → s.slave = none → seOn s = true →
    i = .readRegisters a n ∨ i = .readFrame a n →
    Completes i s fun t mid =>
      cleanFlags t = true ∧ t.csN = true ∧
      ∃ (z : Byte) (is : List Byte), is.length = n.toNat ∧ t.rxout = is ∧
        busTrace mid = [.csAssert, .xfer (a ||| 0xC0) z] ++ is.map (Event.xfer 0x00) ++ [.csDeassert]

/-- WRITE_REGISTER and the write frame (R75, R121): one span of chip-select around the command byte and the value,
nothing is returned, and the drain clears the overrun. No slave is plugged in (with one see
`WriteRegisterReachesTheSlave`). That the frame is a request of its own, and that for an address of 64 or more the OR is
computed unchecked, are the model's choices (log entries 5, 6). -/
def Obligations.WriteRegisterRuns : Prop :=
  ∀ (a v : Byte) (s : State) (i : Instr), Ready s → s.slave = none → seOn s = true →
    i = .writeRegister a v ∨ i = .writeFrame a v →
    Completes i s fun t mid =>
      cleanFlags t = true ∧ t.csN = true ∧ t.rxout = [] ∧
      (∃ y z : Byte, busTrace mid = [.csAssert, .xfer (a ||| 0x40) y, .xfer v z, .csDeassert]) ∧
      ∃ x, registerTrace mid = [.cs false, .polled .txe true, .wdr (a ||| 0x40), .polled .txe true, .wdr v,
        .polled .txe true, .polled .bsy false, .rdr x, .drained 0x42, .cs true]

/-- INITIALIZE (R124, R126): pins, bus, and three write frames in their order, ending in the clean IDLE state with the
line deasserted, the engine on and the device's ghost MEASURING. No slave is plugged in. -/
def Obligations.InitializeRuns : Prop :=
  ∀ s : State, Ready s → s.slave = none → s.cfgDone = false →
    Completes .initDevice s fun t mid =>
      cleanFlags t = true ∧ t.csN = true ∧ t.rxout = [] ∧ t.cr = 0x034F ∧ seOn t = true ∧
      t.pinsCfg = true ∧ t.busClkEn = true ∧ t.cfgDone = true ∧ t.devPower = .measuring ∧
      (registerTrace mid).take 4 = [.extPins, .extBusEn, .wcr 0x034F, .cs false] ∧
      ∃ z0 z1 z2 z3 z4 z5 : Byte, busTrace mid =
        [.csAssert, .xfer (Config.rangeRegister ||| 0x40) z0, .xfer Config.rangeValue z1, .csDeassert,
         .csAssert, .xfer 0x6D z2, .xfer 0x00 z3, .csDeassert,
         .csAssert, .xfer 0x6D z4, .xfer 0x08 z5, .csDeassert]

/-- WRITE_REGISTER with the reference slave plugged in and the pins configured (R60, R121): the register holds the
value and every other register reads as before. -/
def Obligations.WriteRegisterReachesTheSlave : Prop :=
  ∀ (a v : Byte) (s : State) (sl : Slave), Ready s → seOn s = true → s.pinsCfg = true → s.slave = some sl →
    addrFits a = true →
    Completes (.writeRegister a v) s fun t _ => ∃ sl', t.slave = some sl' ∧
      Memory.read sl'.regs a.toNat = v ∧
      ∀ b, b ≠ a.toNat → Memory.read sl'.regs b = Memory.read sl.regs b

/-- READ_REGISTERS with the reference slave plugged in and the pins configured (R60, R120): with a + n at most 64 it
returns the contents of registers a, a + 1, ..., lowest first, and changes none. -/
def Obligations.ReadRegistersReturnsTheSlavesBytes : Prop :=
  ∀ (a n : Byte) (s : State) (sl : Slave), Ready s → seOn s = true → s.pinsCfg = true → s.slave = some sl →
    addrFits a = true → a.toNat + n.toNat ≤ 64 →
    Completes (.readRegisters a n) s fun t _ =>
      t.rxout = (List.range n.toNat).map (fun k => Memory.read sl.regs (a.toNat + k)) ∧
      ∃ sl', t.slave = some sl' ∧ sl'.regs = sl.regs

/-- The round trip (R127): with the reference slave, a WRITE_REGISTER of `v` at `a` leaves `v` in the register, and a
READ_REGISTERS of one byte at `a` that follows immediately returns `[v]`, for every address 0 to 63 and every byte. It
asks that the pins are configured, because before that the slave counts as not selected (R19, log entry 16); so it says
nothing of a block on which CONFIGURE_BUS alone has been executed, the start state program P2 names. -/
def Obligations.WriteThenReadReturnsTheValue : Prop :=
  ∀ (a v : Byte) (s : State) (sl : Slave), Ready s → seOn s = true → s.pinsCfg = true → s.slave = some sl →
    addrFits a = true →
    Completes (.writeRegister a v) s fun t _ =>
      (∃ sl', t.slave = some sl' ∧ Memory.read sl'.regs a.toNat = v) ∧
      Completes (.readRegisters a 1) t fun u _ => u.rxout = [v]

/-! ## The wire and the sample buffer -/

/-- One word on the wire (R49, R94): eight pulses, each a falling and a rising edge; what is sampled on the rising
edges is the byte, bit 7 first, on MOSI and on MISO, and assembling it gives the byte back. -/
def Obligations.WordTravelsMostSignificantBitFirst : Prop :=
  ∀ o i : Byte,
    (wordWave o i).length = 16 ∧ (wordWave o i).map Edge.sck = (List.replicate 8 [false, true]).flatten ∧
    samples Edge.mosi (wordWave o i) = (List.range 8).map (fun k => o.getLsbD (7 - k)) ∧
    assemble (samples Edge.mosi (wordWave o i)) = o ∧ assemble (samples Edge.miso (wordWave o i)) = i

/-- The reading of a sample pair (R51, R125): low byte first, two's complement; the scenario's bytes decode to 500, 0
and 0, and the value is within -32768 to 32767. -/
def Obligations.SamplePairsAreLittleEndian : Prop :=
  (∀ low high : Byte, sampleValue low high =
    if high.toNat < 128 then (high.toNat * 256 + low.toNat : Int)
    else (high.toNat * 256 + low.toNat : Int) - 65536) ∧
  (List.range 3).map (sampleAxis [0xF4, 0x01, 0x00, 0x00, 0x00, 0x00]) = [some 500, some 0, some 0] ∧
  (List.range 3).map (sampleAxis [0x0C, 0xFE, 0xFF, 0xFF, 0x00, 0x80]) = [some (-500), some (-1), some (-32768)]
end

