-- ==== Sys2Proof/Laws/Memory.lean ====
section
/-! SUPPORT. The device register memory: a write is read back, every other register is left alone, and the canonical
form is kept. -/

namespace Sys2Proof.Machine

theorem Memory.read_cons_same (a : Nat) (v : Byte) (rest : Memory) (h : Memory.read rest a = unlistedRegister) :
    Memory.read (Memory.cons a v rest) a = v := by
  unfold Memory.cons
  split
  · rename_i e; rw [h, e]
  · simp [Memory.read]

theorem Memory.read_cons_other (a b : Nat) (v : Byte) (rest : Memory) (h : b ≠ a) :
    Memory.read (Memory.cons a v rest) b = Memory.read rest b := by
  unfold Memory.cons
  split
  · rfl
  · simp [Memory.read, h]

/-- Nothing below the start of a canonical rest is listed. -/
theorem Memory.read_below (lo : Nat) (m : Memory) (h : Memory.wfFrom lo m = true) (a : Nat) (ha : a < lo) :
    Memory.read m a = unlistedRegister := by
  induction m generalizing lo with
  | nil => rfl
  | cons c rest ih =>
    obtain ⟨k, b⟩ := c
    simp only [Memory.wfFrom, Bool.and_eq_true, decide_eq_true_eq] at h
    have hk : a ≠ k := by omega
    simp only [Memory.read, hk, if_false]
    exact ih (k + 1) h.2 (by omega)

theorem Memory.wfFrom_mono (lo lo' : Nat) (m : Memory) (hle : lo' ≤ lo) (h : Memory.wfFrom lo m = true) :
    Memory.wfFrom lo' m = true := by
  cases m with
  | nil => rfl
  | cons c rest =>
    obtain ⟨k, b⟩ := c
    simp only [Memory.wfFrom, Bool.and_eq_true, decide_eq_true_eq] at h ⊢
    exact ⟨⟨⟨by omega, h.1.1.2⟩, h.1.2⟩, h.2⟩

theorem Memory.cons_wfFrom (lo a : Nat) (v : Byte) (rest : Memory) (hlo : lo ≤ a) (ha : a < 64)
    (h : Memory.wfFrom (a + 1) rest = true) : Memory.wfFrom lo (Memory.cons a v rest) = true := by
  unfold Memory.cons
  split
  · exact Memory.wfFrom_mono _ _ _ (by omega) h
  · rename_i hv
    simp [Memory.wfFrom, hlo, ha, hv, h]

theorem Memory.write_wfFrom (lo a : Nat) (v : Byte) (m : Memory) (hlo : lo ≤ a) (ha : a < 64)
    (h : Memory.wfFrom lo m = true) : Memory.wfFrom lo (Memory.write m a v) = true := by
  induction m generalizing lo with
  | nil => exact Memory.cons_wfFrom lo a v [] hlo ha rfl
  | cons c rest ih =>
    obtain ⟨k, b⟩ := c
    have h' := h
    simp only [Memory.wfFrom, Bool.and_eq_true, decide_eq_true_eq] at h'
    unfold Memory.write
    split
    · refine Memory.cons_wfFrom lo a v _ hlo ha ?_
      simp only [Memory.wfFrom, Bool.and_eq_true, decide_eq_true_eq]
      exact ⟨⟨⟨by omega, h'.1.1.2⟩, h'.1.2⟩, h'.2⟩
    · split
      · rename_i e; subst e
        exact Memory.cons_wfFrom lo a v rest hlo ha h'.2
      · have := ih (k + 1) (by omega) h'.2
        simp only [Memory.wfFrom, Bool.and_eq_true, decide_eq_true_eq]
        exact ⟨⟨⟨h'.1.1.1, h'.1.1.2⟩, h'.1.2⟩, this⟩

/-- Every write to a device register keeps the canonical form. -/
theorem Memory.write_keeps_wf (m : Memory) (a : Nat) (v : Byte) (ha : a < 64) (h : Memory.wf m = true) :
    Memory.wf (Memory.write m a v) = true :=
  Memory.write_wfFrom 0 a v m (Nat.zero_le a) ha h

theorem Memory.read_write_same_from (lo a : Nat) (v : Byte) (m : Memory) (h : Memory.wfFrom lo m = true) :
    Memory.read (Memory.write m a v) a = v := by
  induction m generalizing lo with
  | nil => exact Memory.read_cons_same a v [] rfl
  | cons c rest ih =>
    obtain ⟨k, b⟩ := c
    have h' := h
    simp only [Memory.wfFrom, Bool.and_eq_true, decide_eq_true_eq] at h'
    unfold Memory.write
    split
    · rename_i hak
      refine Memory.read_cons_same a v _ ?_
      have hk : a ≠ k := by omega
      simp only [Memory.read, hk, if_false]
      exact Memory.read_below (k + 1) rest h'.2 a (by omega)
    · split
      · rename_i e; subst e
        exact Memory.read_cons_same a v rest (Memory.read_below (a + 1) rest h'.2 a (by omega))
      · rename_i hne
        simp only [Memory.read, hne, if_false]
        exact ih (k + 1) h'.2

/-- A register reads as what was written to it. -/
theorem Memory.read_write_same (m : Memory) (a : Nat) (v : Byte) (h : Memory.wf m = true) :
    Memory.read (Memory.write m a v) a = v :=
  Memory.read_write_same_from 0 a v m h

/-- A write leaves every other register alone. -/
theorem Memory.read_write_other (m : Memory) (a b : Nat) (v : Byte) (hne : b ≠ a) :
    Memory.read (Memory.write m a v) b = Memory.read m b := by
  induction m with
  | nil => exact Memory.read_cons_other a b v [] hne
  | cons c rest ih =>
    obtain ⟨k, w⟩ := c
    unfold Memory.write
    split
    · exact Memory.read_cons_other a b v _ hne
    · split
      · rename_i e; subst e
        rw [Memory.read_cons_other a b v rest hne]
        simp [Memory.read, hne]
      · simp only [Memory.read, ih]

/-- The slave's exchange keeps its registers in canonical form. -/
theorem Slave.exchange_keeps_wf (o any i : Byte) (sl sl' : Slave) (h : Memory.wf sl.regs = true)
    (hx : Slave.exchange o any sl = .next (i, sl')) : Memory.wf sl'.regs = true := by
  have adv : ∀ t : Slave, (Slave.advance t).regs = t.regs := by
    intro t; unfold Slave.advance; split <;> rfl
  unfold Slave.exchange at hx
  split at hx
  · cases hx; exact h
  · split at hx
    · cases hx; exact h
    · cases hx
  · cases hx
    rw [adv]
    exact Memory.write_keeps_wf _ _ _ (by have := sl.ptr.isLt; omega) h
  · cases hx; rw [adv]; exact h
  · cases hx

end Sys2Proof.Machine
end

