-- ==== Sys2Proof/Laws/State.lean ====
section
/-! SUPPORT. One lemma per field per named update of the state, so that no later proof unfolds a record update. -/

namespace Sys2Proof.Machine

/-! ## `emit` -/

@[simp] theorem emit_txbuf (e : Event) (s : State) : (s.emit e).txbuf = s.txbuf := rfl
@[simp] theorem emit_rxbuf (e : Event) (s : State) : (s.emit e).rxbuf = s.rxbuf := rfl
@[simp] theorem emit_shout (e : Event) (s : State) : (s.emit e).shout = s.shout := rfl
@[simp] theorem emit_cr (e : Event) (s : State) : (s.emit e).cr = s.cr := rfl
@[simp] theorem emit_txe (e : Event) (s : State) : (s.emit e).txe = s.txe := rfl
@[simp] theorem emit_rxne (e : Event) (s : State) : (s.emit e).rxne = s.rxne := rfl
@[simp] theorem emit_bsy (e : Event) (s : State) : (s.emit e).bsy = s.bsy := rfl
@[simp] theorem emit_ovr (e : Event) (s : State) : (s.emit e).ovr = s.ovr := rfl
@[simp] theorem emit_ovrArm (e : Event) (s : State) : (s.emit e).ovrArm = s.ovrArm := rfl
@[simp] theorem emit_csN (e : Event) (s : State) : (s.emit e).csN = s.csN := rfl
@[simp] theorem emit_todo (e : Event) (s : State) : (s.emit e).todo = s.todo := rfl
@[simp] theorem emit_op (e : Event) (s : State) : (s.emit e).op = s.op := rfl
@[simp] theorem emit_rxout (e : Event) (s : State) : (s.emit e).rxout = s.rxout := rfl
@[simp] theorem emit_encOut (e : Event) (s : State) : (s.emit e).encOut = s.encOut := rfl
@[simp] theorem emit_busClkEn (e : Event) (s : State) : (s.emit e).busClkEn = s.busClkEn := rfl
@[simp] theorem emit_pinsCfg (e : Event) (s : State) : (s.emit e).pinsCfg = s.pinsCfg := rfl
@[simp] theorem emit_cfgDone (e : Event) (s : State) : (s.emit e).cfgDone = s.cfgDone := rfl
@[simp] theorem emit_devPower (e : Event) (s : State) : (s.emit e).devPower = s.devPower := rfl
@[simp] theorem emit_hist (e : Event) (s : State) : (s.emit e).hist = s.hist ++ [e] := rfl
@[simp] theorem emit_hostPort (e : Event) (s : State) : (s.emit e).hostPort = s.hostPort := rfl
@[simp] theorem emit_txStream (e : Event) (s : State) : (s.emit e).txStream = s.txStream := rfl
@[simp] theorem emit_slave (e : Event) (s : State) : (s.emit e).slave = s.slave := rfl
@[simp] theorem emit_rstAfter (e : Event) (s : State) : (s.emit e).rstAfter = s.rstAfter := rfl
@[simp] theorem emit_draws (e : Event) (s : State) : (s.emit e).draws = s.draws := rfl
@[simp] theorem emit_waited (e : Event) (s : State) : (s.emit e).waited = s.waited := rfl

/-! ## `RdDR` -/

@[simp] theorem rdDR_txbuf (s : State) : ((rdDR s).2).txbuf = s.txbuf := rfl
@[simp] theorem rdDR_rxbuf (s : State) : ((rdDR s).2).rxbuf = s.rxbuf := rfl
@[simp] theorem rdDR_shout (s : State) : ((rdDR s).2).shout = s.shout := rfl
@[simp] theorem rdDR_cr (s : State) : ((rdDR s).2).cr = s.cr := rfl
@[simp] theorem rdDR_txe (s : State) : ((rdDR s).2).txe = s.txe := rfl
@[simp] theorem rdDR_rxne (s : State) : ((rdDR s).2).rxne = false := rfl
@[simp] theorem rdDR_bsy (s : State) : ((rdDR s).2).bsy = s.bsy := rfl
@[simp] theorem rdDR_ovr (s : State) : ((rdDR s).2).ovr = s.ovr := rfl
@[simp] theorem rdDR_ovrArm (s : State) : ((rdDR s).2).ovrArm = (s.ovrArm || s.ovr) := rfl
@[simp] theorem rdDR_csN (s : State) : ((rdDR s).2).csN = s.csN := rfl
@[simp] theorem rdDR_todo (s : State) : ((rdDR s).2).todo = s.todo := rfl
@[simp] theorem rdDR_op (s : State) : ((rdDR s).2).op = s.op := rfl
@[simp] theorem rdDR_rxout (s : State) : ((rdDR s).2).rxout = s.rxout := rfl
@[simp] theorem rdDR_encOut (s : State) : ((rdDR s).2).encOut = s.encOut := rfl
@[simp] theorem rdDR_busClkEn (s : State) : ((rdDR s).2).busClkEn = s.busClkEn := rfl
@[simp] theorem rdDR_pinsCfg (s : State) : ((rdDR s).2).pinsCfg = s.pinsCfg := rfl
@[simp] theorem rdDR_cfgDone (s : State) : ((rdDR s).2).cfgDone = s.cfgDone := rfl
@[simp] theorem rdDR_devPower (s : State) : ((rdDR s).2).devPower = s.devPower := rfl
@[simp] theorem rdDR_hist (s : State) : ((rdDR s).2).hist = s.hist ++ [.rdr s.rxbuf] := rfl
@[simp] theorem rdDR_hostPort (s : State) : ((rdDR s).2).hostPort = s.hostPort := rfl
@[simp] theorem rdDR_txStream (s : State) : ((rdDR s).2).txStream = s.txStream := rfl
@[simp] theorem rdDR_slave (s : State) : ((rdDR s).2).slave = s.slave := rfl
@[simp] theorem rdDR_rstAfter (s : State) : ((rdDR s).2).rstAfter = s.rstAfter := rfl
@[simp] theorem rdDR_draws (s : State) : ((rdDR s).2).draws = s.draws := rfl
@[simp] theorem rdDR_waited (s : State) : ((rdDR s).2).waited = s.waited := rfl

/-! ## `RdSR` -/

@[simp] theorem rdSR_txbuf (use : SrUse) (s : State) : ((rdSR use s).2).txbuf = s.txbuf := rfl
@[simp] theorem rdSR_rxbuf (use : SrUse) (s : State) : ((rdSR use s).2).rxbuf = s.rxbuf := rfl
@[simp] theorem rdSR_shout (use : SrUse) (s : State) : ((rdSR use s).2).shout = s.shout := rfl
@[simp] theorem rdSR_cr (use : SrUse) (s : State) : ((rdSR use s).2).cr = s.cr := rfl
@[simp] theorem rdSR_txe (use : SrUse) (s : State) : ((rdSR use s).2).txe = s.txe := rfl
@[simp] theorem rdSR_rxne (use : SrUse) (s : State) : ((rdSR use s).2).rxne = s.rxne := rfl
@[simp] theorem rdSR_bsy (use : SrUse) (s : State) : ((rdSR use s).2).bsy = s.bsy := rfl
@[simp] theorem rdSR_ovr (use : SrUse) (s : State) : ((rdSR use s).2).ovr = (s.ovr && !s.ovrArm) := rfl
@[simp] theorem rdSR_ovrArm (use : SrUse) (s : State) : ((rdSR use s).2).ovrArm = false := rfl
@[simp] theorem rdSR_csN (use : SrUse) (s : State) : ((rdSR use s).2).csN = s.csN := rfl
@[simp] theorem rdSR_todo (use : SrUse) (s : State) : ((rdSR use s).2).todo = s.todo := rfl
@[simp] theorem rdSR_op (use : SrUse) (s : State) : ((rdSR use s).2).op = s.op := rfl
@[simp] theorem rdSR_rxout (use : SrUse) (s : State) : ((rdSR use s).2).rxout = s.rxout := rfl
@[simp] theorem rdSR_encOut (use : SrUse) (s : State) : ((rdSR use s).2).encOut = s.encOut := rfl
@[simp] theorem rdSR_busClkEn (use : SrUse) (s : State) : ((rdSR use s).2).busClkEn = s.busClkEn := rfl
@[simp] theorem rdSR_pinsCfg (use : SrUse) (s : State) : ((rdSR use s).2).pinsCfg = s.pinsCfg := rfl
@[simp] theorem rdSR_cfgDone (use : SrUse) (s : State) : ((rdSR use s).2).cfgDone = s.cfgDone := rfl
@[simp] theorem rdSR_devPower (use : SrUse) (s : State) : ((rdSR use s).2).devPower = s.devPower := rfl
@[simp] theorem rdSR_hist (use : SrUse) (s : State) : ((rdSR use s).2).hist = s.hist ++ [.rsr (srImage s) use] := rfl
@[simp] theorem rdSR_hostPort (use : SrUse) (s : State) : ((rdSR use s).2).hostPort = s.hostPort := rfl
@[simp] theorem rdSR_txStream (use : SrUse) (s : State) : ((rdSR use s).2).txStream = s.txStream := rfl
@[simp] theorem rdSR_slave (use : SrUse) (s : State) : ((rdSR use s).2).slave = s.slave := rfl
@[simp] theorem rdSR_rstAfter (use : SrUse) (s : State) : ((rdSR use s).2).rstAfter = s.rstAfter := rfl
@[simp] theorem rdSR_draws (use : SrUse) (s : State) : ((rdSR use s).2).draws = s.draws := rfl
@[simp] theorem rdSR_waited (use : SrUse) (s : State) : ((rdSR use s).2).waited = s.waited := rfl

/-! ## Acceptance -/

@[simp] theorem latch_txbuf (i : Instr) (body : List MicroOp) (s : State) : (latch i body s).txbuf = s.txbuf := rfl
@[simp] theorem latch_rxbuf (i : Instr) (body : List MicroOp) (s : State) : (latch i body s).rxbuf = s.rxbuf := rfl
@[simp] theorem latch_shout (i : Instr) (body : List MicroOp) (s : State) : (latch i body s).shout = s.shout := rfl
@[simp] theorem latch_cr (i : Instr) (body : List MicroOp) (s : State) : (latch i body s).cr = s.cr := rfl
@[simp] theorem latch_txe (i : Instr) (body : List MicroOp) (s : State) : (latch i body s).txe = s.txe := rfl
@[simp] theorem latch_rxne (i : Instr) (body : List MicroOp) (s : State) : (latch i body s).rxne = s.rxne := rfl
@[simp] theorem latch_bsy (i : Instr) (body : List MicroOp) (s : State) : (latch i body s).bsy = s.bsy := rfl
@[simp] theorem latch_ovr (i : Instr) (body : List MicroOp) (s : State) : (latch i body s).ovr = s.ovr := rfl
@[simp] theorem latch_ovrArm (i : Instr) (body : List MicroOp) (s : State) : (latch i body s).ovrArm = s.ovrArm := rfl
@[simp] theorem latch_csN (i : Instr) (body : List MicroOp) (s : State) : (latch i body s).csN = s.csN := rfl
@[simp] theorem latch_todo (i : Instr) (body : List MicroOp) (s : State) : (latch i body s).todo = body := rfl
@[simp] theorem latch_op (i : Instr) (body : List MicroOp) (s : State) : (latch i body s).op = some i := rfl
@[simp] theorem latch_rxout (i : Instr) (body : List MicroOp) (s : State) : (latch i body s).rxout = [] := rfl
@[simp] theorem latch_encOut (i : Instr) (body : List MicroOp) (s : State) : (latch i body s).encOut = s.encOut := rfl
@[simp] theorem latch_busClkEn (i : Instr) (body : List MicroOp) (s : State) : (latch i body s).busClkEn = s.busClkEn := rfl
@[simp] theorem latch_pinsCfg (i : Instr) (body : List MicroOp) (s : State) : (latch i body s).pinsCfg = s.pinsCfg := rfl
@[simp] theorem latch_cfgDone (i : Instr) (body : List MicroOp) (s : State) : (latch i body s).cfgDone = s.cfgDone := rfl
@[simp] theorem latch_devPower (i : Instr) (body : List MicroOp) (s : State) : (latch i body s).devPower = s.devPower := rfl
@[simp] theorem latch_hist (i : Instr) (body : List MicroOp) (s : State) : (latch i body s).hist = s.hist ++ [.accept i] := rfl
@[simp] theorem latch_hostPort (i : Instr) (body : List MicroOp) (s : State) : (latch i body s).hostPort = s.hostPort := rfl
@[simp] theorem latch_txStream (i : Instr) (body : List MicroOp) (s : State) : (latch i body s).txStream = s.txStream := rfl
@[simp] theorem latch_slave (i : Instr) (body : List MicroOp) (s : State) : (latch i body s).slave = s.slave := rfl
@[simp] theorem latch_rstAfter (i : Instr) (body : List MicroOp) (s : State) : (latch i body s).rstAfter = s.rstAfter := rfl
@[simp] theorem latch_draws (i : Instr) (body : List MicroOp) (s : State) : (latch i body s).draws = s.draws := rfl
@[simp] theorem latch_waited (i : Instr) (body : List MicroOp) (s : State) : (latch i body s).waited = s.waited := rfl

/-! ## Completion -/

@[simp] theorem finish_txbuf (s : State) : (finish s).txbuf = s.txbuf := by
  unfold finish; split <;> (try split) <;> rfl
@[simp] theorem finish_rxbuf (s : State) : (finish s).rxbuf = s.rxbuf := by
  unfold finish; split <;> (try split) <;> rfl
@[simp] theorem finish_shout (s : State) : (finish s).shout = s.shout := by
  unfold finish; split <;> (try split) <;> rfl
@[simp] theorem finish_cr (s : State) : (finish s).cr = s.cr := by
  unfold finish; split <;> (try split) <;> rfl
@[simp] theorem finish_txe (s : State) : (finish s).txe = s.txe := by
  unfold finish; split <;> (try split) <;> rfl
@[simp] theorem finish_rxne (s : State) : (finish s).rxne = s.rxne := by
  unfold finish; split <;> (try split) <;> rfl
@[simp] theorem finish_bsy (s : State) : (finish s).bsy = s.bsy := by
  unfold finish; split <;> (try split) <;> rfl
@[simp] theorem finish_ovr (s : State) : (finish s).ovr = s.ovr := by
  unfold finish; split <;> (try split) <;> rfl
@[simp] theorem finish_ovrArm (s : State) : (finish s).ovrArm = s.ovrArm := by
  unfold finish; split <;> (try split) <;> rfl
@[simp] theorem finish_csN (s : State) : (finish s).csN = s.csN := by
  unfold finish; split <;> (try split) <;> rfl
@[simp] theorem finish_todo (s : State) : (finish s).todo = s.todo := by
  unfold finish; split <;> (try split) <;> rfl
@[simp] theorem finish_rxout (s : State) : (finish s).rxout = s.rxout := by
  unfold finish; split <;> (try split) <;> rfl
@[simp] theorem finish_encOut (s : State) : (finish s).encOut = s.encOut := by
  unfold finish; split <;> (try split) <;> rfl
@[simp] theorem finish_busClkEn (s : State) : (finish s).busClkEn = s.busClkEn := by
  unfold finish; split <;> (try split) <;> rfl
@[simp] theorem finish_pinsCfg (s : State) : (finish s).pinsCfg = s.pinsCfg := by
  unfold finish; split <;> (try split) <;> rfl
@[simp] theorem finish_cfgDone (s : State) : (finish s).cfgDone = s.cfgDone := by
  unfold finish; split <;> (try split) <;> rfl
@[simp] theorem finish_devPower (s : State) : (finish s).devPower = s.devPower := by
  unfold finish; split <;> (try split) <;> rfl
@[simp] theorem finish_hostPort (s : State) : (finish s).hostPort = s.hostPort := by
  unfold finish; split <;> (try split) <;> rfl
@[simp] theorem finish_txStream (s : State) : (finish s).txStream = s.txStream := by
  unfold finish; split <;> (try split) <;> rfl
@[simp] theorem finish_slave (s : State) : (finish s).slave = s.slave := by
  unfold finish; split <;> (try split) <;> rfl
@[simp] theorem finish_rstAfter (s : State) : (finish s).rstAfter = s.rstAfter := by
  unfold finish; split <;> (try split) <;> rfl
@[simp] theorem finish_draws (s : State) : (finish s).draws = s.draws := by
  unfold finish; split <;> (try split) <;> rfl
@[simp] theorem finish_waited (s : State) : (finish s).waited = s.waited := by
  unfold finish; split <;> (try split) <;> rfl

/-! ## `Cs(level)` -/

@[simp] theorem driveCs_txbuf (level : Bool) (s : State) : (driveCs level s).txbuf = s.txbuf := rfl
@[simp] theorem driveCs_rxbuf (level : Bool) (s : State) : (driveCs level s).rxbuf = s.rxbuf := rfl
@[simp] theorem driveCs_shout (level : Bool) (s : State) : (driveCs level s).shout = s.shout := rfl
@[simp] theorem driveCs_cr (level : Bool) (s : State) : (driveCs level s).cr = s.cr := rfl
@[simp] theorem driveCs_txe (level : Bool) (s : State) : (driveCs level s).txe = s.txe := rfl
@[simp] theorem driveCs_rxne (level : Bool) (s : State) : (driveCs level s).rxne = s.rxne := rfl
@[simp] theorem driveCs_bsy (level : Bool) (s : State) : (driveCs level s).bsy = s.bsy := rfl
@[simp] theorem driveCs_ovr (level : Bool) (s : State) : (driveCs level s).ovr = s.ovr := rfl
@[simp] theorem driveCs_ovrArm (level : Bool) (s : State) : (driveCs level s).ovrArm = s.ovrArm := rfl
@[simp] theorem driveCs_csN (level : Bool) (s : State) : (driveCs level s).csN = level := rfl
@[simp] theorem driveCs_todo (level : Bool) (s : State) : (driveCs level s).todo = s.todo := rfl
@[simp] theorem driveCs_op (level : Bool) (s : State) : (driveCs level s).op = s.op := rfl
@[simp] theorem driveCs_rxout (level : Bool) (s : State) : (driveCs level s).rxout = s.rxout := rfl
@[simp] theorem driveCs_encOut (level : Bool) (s : State) : (driveCs level s).encOut = s.encOut := rfl
@[simp] theorem driveCs_busClkEn (level : Bool) (s : State) : (driveCs level s).busClkEn = s.busClkEn := rfl
@[simp] theorem driveCs_pinsCfg (level : Bool) (s : State) : (driveCs level s).pinsCfg = s.pinsCfg := rfl
@[simp] theorem driveCs_cfgDone (level : Bool) (s : State) : (driveCs level s).cfgDone = s.cfgDone := rfl
@[simp] theorem driveCs_devPower (level : Bool) (s : State) : (driveCs level s).devPower = s.devPower := rfl
@[simp] theorem driveCs_hist (level : Bool) (s : State) : (driveCs level s).hist = s.hist ++ [if level then .csDeassert else .csAssert] := rfl
@[simp] theorem driveCs_hostPort (level : Bool) (s : State) : (driveCs level s).hostPort = s.hostPort := rfl
@[simp] theorem driveCs_txStream (level : Bool) (s : State) : (driveCs level s).txStream = s.txStream := rfl
@[simp] theorem driveCs_slave (level : Bool) (s : State) : (driveCs level s).slave = if level then s.slave.map Slave.deselect
    else if s.pinsCfg then s.slave.map Slave.select else s.slave := rfl
@[simp] theorem driveCs_rstAfter (level : Bool) (s : State) : (driveCs level s).rstAfter = s.rstAfter := rfl
@[simp] theorem driveCs_draws (level : Bool) (s : State) : (driveCs level s).draws = s.draws := rfl
@[simp] theorem driveCs_waited (level : Bool) (s : State) : (driveCs level s).waited = s.waited := rfl

/-! ## SE-LOAD -/

@[simp] theorem seLoad_txbuf (s : State) : (seLoad s).txbuf = s.txbuf := rfl
@[simp] theorem seLoad_rxbuf (s : State) : (seLoad s).rxbuf = s.rxbuf := rfl
@[simp] theorem seLoad_shout (s : State) : (seLoad s).shout = s.txbuf := rfl
@[simp] theorem seLoad_cr (s : State) : (seLoad s).cr = s.cr := rfl
@[simp] theorem seLoad_txe (s : State) : (seLoad s).txe = true := rfl
@[simp] theorem seLoad_rxne (s : State) : (seLoad s).rxne = s.rxne := rfl
@[simp] theorem seLoad_bsy (s : State) : (seLoad s).bsy = true := rfl
@[simp] theorem seLoad_ovr (s : State) : (seLoad s).ovr = s.ovr := rfl
@[simp] theorem seLoad_ovrArm (s : State) : (seLoad s).ovrArm = s.ovrArm := rfl
@[simp] theorem seLoad_csN (s : State) : (seLoad s).csN = s.csN := rfl
@[simp] theorem seLoad_todo (s : State) : (seLoad s).todo = s.todo := rfl
@[simp] theorem seLoad_op (s : State) : (seLoad s).op = s.op := rfl
@[simp] theorem seLoad_rxout (s : State) : (seLoad s).rxout = s.rxout := rfl
@[simp] theorem seLoad_encOut (s : State) : (seLoad s).encOut = s.encOut := rfl
@[simp] theorem seLoad_busClkEn (s : State) : (seLoad s).busClkEn = s.busClkEn := rfl
@[simp] theorem seLoad_pinsCfg (s : State) : (seLoad s).pinsCfg = s.pinsCfg := rfl
@[simp] theorem seLoad_cfgDone (s : State) : (seLoad s).cfgDone = s.cfgDone := rfl
@[simp] theorem seLoad_devPower (s : State) : (seLoad s).devPower = s.devPower := rfl
@[simp] theorem seLoad_hist (s : State) : (seLoad s).hist = s.hist ++ [.start s.txbuf] := rfl
@[simp] theorem seLoad_hostPort (s : State) : (seLoad s).hostPort = s.hostPort := rfl
@[simp] theorem seLoad_txStream (s : State) : (seLoad s).txStream = s.txStream := rfl
@[simp] theorem seLoad_slave (s : State) : (seLoad s).slave = s.slave := rfl
@[simp] theorem seLoad_rstAfter (s : State) : (seLoad s).rstAfter = s.rstAfter := rfl
@[simp] theorem seLoad_draws (s : State) : (seLoad s).draws = s.draws := rfl
@[simp] theorem seLoad_waited (s : State) : (seLoad s).waited = s.waited := rfl

/-! ## The engine's counters -/

@[simp] theorem engineMoved_txbuf (s : State) : (engineMoved s).txbuf = s.txbuf := rfl
@[simp] theorem engineMoved_rxbuf (s : State) : (engineMoved s).rxbuf = s.rxbuf := rfl
@[simp] theorem engineMoved_shout (s : State) : (engineMoved s).shout = s.shout := rfl
@[simp] theorem engineMoved_cr (s : State) : (engineMoved s).cr = s.cr := rfl
@[simp] theorem engineMoved_txe (s : State) : (engineMoved s).txe = s.txe := rfl
@[simp] theorem engineMoved_rxne (s : State) : (engineMoved s).rxne = s.rxne := rfl
@[simp] theorem engineMoved_bsy (s : State) : (engineMoved s).bsy = s.bsy := rfl
@[simp] theorem engineMoved_ovr (s : State) : (engineMoved s).ovr = s.ovr := rfl
@[simp] theorem engineMoved_ovrArm (s : State) : (engineMoved s).ovrArm = s.ovrArm := rfl
@[simp] theorem engineMoved_csN (s : State) : (engineMoved s).csN = s.csN := rfl
@[simp] theorem engineMoved_todo (s : State) : (engineMoved s).todo = s.todo := rfl
@[simp] theorem engineMoved_op (s : State) : (engineMoved s).op = s.op := rfl
@[simp] theorem engineMoved_rxout (s : State) : (engineMoved s).rxout = s.rxout := rfl
@[simp] theorem engineMoved_encOut (s : State) : (engineMoved s).encOut = s.encOut := rfl
@[simp] theorem engineMoved_busClkEn (s : State) : (engineMoved s).busClkEn = s.busClkEn := rfl
@[simp] theorem engineMoved_pinsCfg (s : State) : (engineMoved s).pinsCfg = s.pinsCfg := rfl
@[simp] theorem engineMoved_cfgDone (s : State) : (engineMoved s).cfgDone = s.cfgDone := rfl
@[simp] theorem engineMoved_devPower (s : State) : (engineMoved s).devPower = s.devPower := rfl
@[simp] theorem engineMoved_hist (s : State) : (engineMoved s).hist = s.hist := rfl
@[simp] theorem engineMoved_hostPort (s : State) : (engineMoved s).hostPort = s.hostPort := rfl
@[simp] theorem engineMoved_txStream (s : State) : (engineMoved s).txStream = s.txStream := rfl
@[simp] theorem engineMoved_slave (s : State) : (engineMoved s).slave = s.slave := rfl
@[simp] theorem engineMoved_rstAfter (s : State) : (engineMoved s).rstAfter = s.rstAfter := rfl
@[simp] theorem engineMoved_draws (s : State) : (engineMoved s).draws = s.draws + 1 := rfl
@[simp] theorem engineMoved_waited (s : State) : (engineMoved s).waited = 0 := rfl

/-! ## The waiting engine -/

@[simp] theorem engineWaits_txbuf (s : State) : (engineWaits s).txbuf = s.txbuf := by
  unfold engineWaits; split <;> simp_all
@[simp] theorem engineWaits_rxbuf (s : State) : (engineWaits s).rxbuf = s.rxbuf := by
  unfold engineWaits; split <;> simp_all
@[simp] theorem engineWaits_shout (s : State) : (engineWaits s).shout = s.shout := by
  unfold engineWaits; split <;> simp_all
@[simp] theorem engineWaits_cr (s : State) : (engineWaits s).cr = s.cr := by
  unfold engineWaits; split <;> simp_all
@[simp] theorem engineWaits_txe (s : State) : (engineWaits s).txe = s.txe := by
  unfold engineWaits; split <;> simp_all
@[simp] theorem engineWaits_rxne (s : State) : (engineWaits s).rxne = s.rxne := by
  unfold engineWaits; split <;> simp_all
@[simp] theorem engineWaits_bsy (s : State) : (engineWaits s).bsy = s.bsy := by
  unfold engineWaits; split <;> simp_all
@[simp] theorem engineWaits_ovr (s : State) : (engineWaits s).ovr = s.ovr := by
  unfold engineWaits; split <;> simp_all
@[simp] theorem engineWaits_ovrArm (s : State) : (engineWaits s).ovrArm = s.ovrArm := by
  unfold engineWaits; split <;> simp_all
@[simp] theorem engineWaits_csN (s : State) : (engineWaits s).csN = s.csN := by
  unfold engineWaits; split <;> simp_all
@[simp] theorem engineWaits_todo (s : State) : (engineWaits s).todo = s.todo := by
  unfold engineWaits; split <;> simp_all
@[simp] theorem engineWaits_op (s : State) : (engineWaits s).op = s.op := by
  unfold engineWaits; split <;> simp_all
@[simp] theorem engineWaits_rxout (s : State) : (engineWaits s).rxout = s.rxout := by
  unfold engineWaits; split <;> simp_all
@[simp] theorem engineWaits_encOut (s : State) : (engineWaits s).encOut = s.encOut := by
  unfold engineWaits; split <;> simp_all
@[simp] theorem engineWaits_busClkEn (s : State) : (engineWaits s).busClkEn = s.busClkEn := by
  unfold engineWaits; split <;> simp_all
@[simp] theorem engineWaits_pinsCfg (s : State) : (engineWaits s).pinsCfg = s.pinsCfg := by
  unfold engineWaits; split <;> simp_all
@[simp] theorem engineWaits_cfgDone (s : State) : (engineWaits s).cfgDone = s.cfgDone := by
  unfold engineWaits; split <;> simp_all
@[simp] theorem engineWaits_devPower (s : State) : (engineWaits s).devPower = s.devPower := by
  unfold engineWaits; split <;> simp_all
@[simp] theorem engineWaits_hist (s : State) : (engineWaits s).hist = s.hist := by
  unfold engineWaits; split <;> simp_all
@[simp] theorem engineWaits_hostPort (s : State) : (engineWaits s).hostPort = s.hostPort := by
  unfold engineWaits; split <;> simp_all
@[simp] theorem engineWaits_txStream (s : State) : (engineWaits s).txStream = s.txStream := by
  unfold engineWaits; split <;> simp_all
@[simp] theorem engineWaits_slave (s : State) : (engineWaits s).slave = s.slave := by
  unfold engineWaits; split <;> simp_all
@[simp] theorem engineWaits_rstAfter (s : State) : (engineWaits s).rstAfter = s.rstAfter := by
  unfold engineWaits; split <;> simp_all
@[simp] theorem engineWaits_draws (s : State) : (engineWaits s).draws = s.draws := by
  unfold engineWaits; split <;> simp_all
@[simp] theorem engineWaits_waited (s : State) : (engineWaits s).waited = bif engineEnabled s then s.waited + 1 else s.waited := by
  unfold engineWaits; split <;> simp_all

/-! ## The receive half of SE-DONE -/

@[simp] theorem seReceive_txbuf (i any : Byte) (s : State) : (seReceive i any s).txbuf = s.txbuf := by
  unfold seReceive; split <;> simp_all
@[simp] theorem seReceive_rxbuf (i any : Byte) (s : State) : (seReceive i any s).rxbuf = bif s.rxne then any else i := by
  unfold seReceive; split <;> simp_all
@[simp] theorem seReceive_shout (i any : Byte) (s : State) : (seReceive i any s).shout = s.shout := by
  unfold seReceive; split <;> simp_all
@[simp] theorem seReceive_cr (i any : Byte) (s : State) : (seReceive i any s).cr = s.cr := by
  unfold seReceive; split <;> simp_all
@[simp] theorem seReceive_txe (i any : Byte) (s : State) : (seReceive i any s).txe = s.txe := by
  unfold seReceive; split <;> simp_all
@[simp] theorem seReceive_rxne (i any : Byte) (s : State) : (seReceive i any s).rxne = true := by
  unfold seReceive; split <;> simp_all
@[simp] theorem seReceive_bsy (i any : Byte) (s : State) : (seReceive i any s).bsy = s.bsy := by
  unfold seReceive; split <;> simp_all
@[simp] theorem seReceive_ovr (i any : Byte) (s : State) : (seReceive i any s).ovr = (s.ovr || s.rxne) := by
  unfold seReceive; split <;> simp_all
@[simp] theorem seReceive_ovrArm (i any : Byte) (s : State) : (seReceive i any s).ovrArm = s.ovrArm := by
  unfold seReceive; split <;> simp_all
@[simp] theorem seReceive_csN (i any : Byte) (s : State) : (seReceive i any s).csN = s.csN := by
  unfold seReceive; split <;> simp_all
@[simp] theorem seReceive_todo (i any : Byte) (s : State) : (seReceive i any s).todo = s.todo := by
  unfold seReceive; split <;> simp_all
@[simp] theorem seReceive_op (i any : Byte) (s : State) : (seReceive i any s).op = s.op := by
  unfold seReceive; split <;> simp_all
@[simp] theorem seReceive_rxout (i any : Byte) (s : State) : (seReceive i any s).rxout = s.rxout := by
  unfold seReceive; split <;> simp_all
@[simp] theorem seReceive_encOut (i any : Byte) (s : State) : (seReceive i any s).encOut = s.encOut := by
  unfold seReceive; split <;> simp_all
@[simp] theorem seReceive_busClkEn (i any : Byte) (s : State) : (seReceive i any s).busClkEn = s.busClkEn := by
  unfold seReceive; split <;> simp_all
@[simp] theorem seReceive_pinsCfg (i any : Byte) (s : State) : (seReceive i any s).pinsCfg = s.pinsCfg := by
  unfold seReceive; split <;> simp_all
@[simp] theorem seReceive_cfgDone (i any : Byte) (s : State) : (seReceive i any s).cfgDone = s.cfgDone := by
  unfold seReceive; split <;> simp_all
@[simp] theorem seReceive_devPower (i any : Byte) (s : State) : (seReceive i any s).devPower = s.devPower := by
  unfold seReceive; split <;> simp_all
@[simp] theorem seReceive_hist (i any : Byte) (s : State) : (seReceive i any s).hist = s.hist := by
  unfold seReceive; split <;> simp_all
@[simp] theorem seReceive_hostPort (i any : Byte) (s : State) : (seReceive i any s).hostPort = s.hostPort := by
  unfold seReceive; split <;> simp_all
@[simp] theorem seReceive_txStream (i any : Byte) (s : State) : (seReceive i any s).txStream = s.txStream := by
  unfold seReceive; split <;> simp_all
@[simp] theorem seReceive_slave (i any : Byte) (s : State) : (seReceive i any s).slave = s.slave := by
  unfold seReceive; split <;> simp_all
@[simp] theorem seReceive_rstAfter (i any : Byte) (s : State) : (seReceive i any s).rstAfter = s.rstAfter := by
  unfold seReceive; split <;> simp_all
@[simp] theorem seReceive_draws (i any : Byte) (s : State) : (seReceive i any s).draws = s.draws := by
  unfold seReceive; split <;> simp_all
@[simp] theorem seReceive_waited (i any : Byte) (s : State) : (seReceive i any s).waited = s.waited := by
  unfold seReceive; split <;> simp_all

/-! ## The transmit half of SE-DONE -/

@[simp] theorem seContinue_txbuf (s : State) : (seContinue s).txbuf = s.txbuf := by
  unfold seContinue; split <;> simp_all
@[simp] theorem seContinue_rxbuf (s : State) : (seContinue s).rxbuf = s.rxbuf := by
  unfold seContinue; split <;> simp_all
@[simp] theorem seContinue_shout (s : State) : (seContinue s).shout = bif s.txe then s.shout else s.txbuf := by
  unfold seContinue; split <;> simp_all
@[simp] theorem seContinue_cr (s : State) : (seContinue s).cr = s.cr := by
  unfold seContinue; split <;> simp_all
@[simp] theorem seContinue_txe (s : State) : (seContinue s).txe = true := by
  unfold seContinue; split <;> simp_all
@[simp] theorem seContinue_rxne (s : State) : (seContinue s).rxne = s.rxne := by
  unfold seContinue; split <;> simp_all
@[simp] theorem seContinue_ovr (s : State) : (seContinue s).ovr = s.ovr := by
  unfold seContinue; split <;> simp_all
@[simp] theorem seContinue_ovrArm (s : State) : (seContinue s).ovrArm = s.ovrArm := by
  unfold seContinue; split <;> simp_all
@[simp] theorem seContinue_csN (s : State) : (seContinue s).csN = s.csN := by
  unfold seContinue; split <;> simp_all
@[simp] theorem seContinue_todo (s : State) : (seContinue s).todo = s.todo := by
  unfold seContinue; split <;> simp_all
@[simp] theorem seContinue_op (s : State) : (seContinue s).op = s.op := by
  unfold seContinue; split <;> simp_all
@[simp] theorem seContinue_rxout (s : State) : (seContinue s).rxout = s.rxout := by
  unfold seContinue; split <;> simp_all
@[simp] theorem seContinue_encOut (s : State) : (seContinue s).encOut = s.encOut := by
  unfold seContinue; split <;> simp_all
@[simp] theorem seContinue_busClkEn (s : State) : (seContinue s).busClkEn = s.busClkEn := by
  unfold seContinue; split <;> simp_all
@[simp] theorem seContinue_pinsCfg (s : State) : (seContinue s).pinsCfg = s.pinsCfg := by
  unfold seContinue; split <;> simp_all
@[simp] theorem seContinue_cfgDone (s : State) : (seContinue s).cfgDone = s.cfgDone := by
  unfold seContinue; split <;> simp_all
@[simp] theorem seContinue_devPower (s : State) : (seContinue s).devPower = s.devPower := by
  unfold seContinue; split <;> simp_all
@[simp] theorem seContinue_hist (s : State) : (seContinue s).hist = s.hist ++ (bif s.txe then [] else [.start s.txbuf]) := by
  unfold seContinue; split <;> simp_all
@[simp] theorem seContinue_hostPort (s : State) : (seContinue s).hostPort = s.hostPort := by
  unfold seContinue; split <;> simp_all
@[simp] theorem seContinue_txStream (s : State) : (seContinue s).txStream = s.txStream := by
  unfold seContinue; split <;> simp_all
@[simp] theorem seContinue_slave (s : State) : (seContinue s).slave = s.slave := by
  unfold seContinue; split <;> simp_all
@[simp] theorem seContinue_rstAfter (s : State) : (seContinue s).rstAfter = s.rstAfter := by
  unfold seContinue; split <;> simp_all
@[simp] theorem seContinue_draws (s : State) : (seContinue s).draws = s.draws := by
  unfold seContinue; split <;> simp_all
@[simp] theorem seContinue_waited (s : State) : (seContinue s).waited = s.waited := by
  unfold seContinue; split <;> simp_all

@[simp] theorem seContinue_bsy (s : State) : (seContinue s).bsy = (s.bsy && !s.txe) := by
  unfold seContinue; split <;> simp_all

/-! ## SE-DONE -/

@[simp] theorem seDone_txbuf (i any : Byte) (s : State) : (seDone i any s).txbuf = s.txbuf := by
  simp [seDone]
@[simp] theorem seDone_rxbuf (i any : Byte) (s : State) : (seDone i any s).rxbuf = bif s.rxne then any else i := by
  simp [seDone]
@[simp] theorem seDone_shout (i any : Byte) (s : State) : (seDone i any s).shout = bif s.txe then s.shout else s.txbuf := by
  simp [seDone]
@[simp] theorem seDone_cr (i any : Byte) (s : State) : (seDone i any s).cr = s.cr := by
  simp [seDone]
@[simp] theorem seDone_txe (i any : Byte) (s : State) : (seDone i any s).txe = true := by
  simp [seDone]
@[simp] theorem seDone_rxne (i any : Byte) (s : State) : (seDone i any s).rxne = true := by
  simp [seDone]
@[simp] theorem seDone_bsy (i any : Byte) (s : State) : (seDone i any s).bsy = (s.bsy && !s.txe) := by
  simp [seDone]
@[simp] theorem seDone_ovr (i any : Byte) (s : State) : (seDone i any s).ovr = (s.ovr || s.rxne) := by
  simp [seDone]
@[simp] theorem seDone_ovrArm (i any : Byte) (s : State) : (seDone i any s).ovrArm = s.ovrArm := by
  simp [seDone]
@[simp] theorem seDone_csN (i any : Byte) (s : State) : (seDone i any s).csN = s.csN := by
  simp [seDone]
@[simp] theorem seDone_todo (i any : Byte) (s : State) : (seDone i any s).todo = s.todo := by
  simp [seDone]
@[simp] theorem seDone_op (i any : Byte) (s : State) : (seDone i any s).op = s.op := by
  simp [seDone]
@[simp] theorem seDone_rxout (i any : Byte) (s : State) : (seDone i any s).rxout = s.rxout := by
  simp [seDone]
@[simp] theorem seDone_encOut (i any : Byte) (s : State) : (seDone i any s).encOut = s.encOut := by
  simp [seDone]
@[simp] theorem seDone_busClkEn (i any : Byte) (s : State) : (seDone i any s).busClkEn = s.busClkEn := by
  simp [seDone]
@[simp] theorem seDone_pinsCfg (i any : Byte) (s : State) : (seDone i any s).pinsCfg = s.pinsCfg := by
  simp [seDone]
@[simp] theorem seDone_cfgDone (i any : Byte) (s : State) : (seDone i any s).cfgDone = s.cfgDone := by
  simp [seDone]
@[simp] theorem seDone_devPower (i any : Byte) (s : State) : (seDone i any s).devPower = s.devPower := by
  simp [seDone]
@[simp] theorem seDone_hist (i any : Byte) (s : State) : (seDone i any s).hist = s.hist ++ .xfer s.shout i :: (bif s.txe then [] else [.start s.txbuf]) := by
  simp [seDone]
@[simp] theorem seDone_hostPort (i any : Byte) (s : State) : (seDone i any s).hostPort = s.hostPort := by
  simp [seDone]
@[simp] theorem seDone_txStream (i any : Byte) (s : State) : (seDone i any s).txStream = s.txStream := by
  simp [seDone]
@[simp] theorem seDone_slave (i any : Byte) (s : State) : (seDone i any s).slave = s.slave := by
  simp [seDone]
@[simp] theorem seDone_rstAfter (i any : Byte) (s : State) : (seDone i any s).rstAfter = s.rstAfter := by
  simp [seDone]
@[simp] theorem seDone_draws (i any : Byte) (s : State) : (seDone i any s).draws = s.draws := by
  simp [seDone]
@[simp] theorem seDone_waited (i any : Byte) (s : State) : (seDone i any s).waited = s.waited := by
  simp [seDone]

/-! ## Presenting an item -/

@[simp] theorem present_txbuf (it : Item) (bytes : List Byte) (s : State) : (present it bytes s).txbuf = s.txbuf := rfl
@[simp] theorem present_rxbuf (it : Item) (bytes : List Byte) (s : State) : (present it bytes s).rxbuf = s.rxbuf := rfl
@[simp] theorem present_shout (it : Item) (bytes : List Byte) (s : State) : (present it bytes s).shout = s.shout := rfl
@[simp] theorem present_cr (it : Item) (bytes : List Byte) (s : State) : (present it bytes s).cr = s.cr := rfl
@[simp] theorem present_txe (it : Item) (bytes : List Byte) (s : State) : (present it bytes s).txe = s.txe := rfl
@[simp] theorem present_rxne (it : Item) (bytes : List Byte) (s : State) : (present it bytes s).rxne = s.rxne := rfl
@[simp] theorem present_bsy (it : Item) (bytes : List Byte) (s : State) : (present it bytes s).bsy = s.bsy := rfl
@[simp] theorem present_ovr (it : Item) (bytes : List Byte) (s : State) : (present it bytes s).ovr = s.ovr := rfl
@[simp] theorem present_ovrArm (it : Item) (bytes : List Byte) (s : State) : (present it bytes s).ovrArm = s.ovrArm := rfl
@[simp] theorem present_csN (it : Item) (bytes : List Byte) (s : State) : (present it bytes s).csN = s.csN := rfl
@[simp] theorem present_todo (it : Item) (bytes : List Byte) (s : State) : (present it bytes s).todo = s.todo := rfl
@[simp] theorem present_op (it : Item) (bytes : List Byte) (s : State) : (present it bytes s).op = s.op := rfl
@[simp] theorem present_rxout (it : Item) (bytes : List Byte) (s : State) : (present it bytes s).rxout = s.rxout := rfl
@[simp] theorem present_encOut (it : Item) (bytes : List Byte) (s : State) : (present it bytes s).encOut = s.encOut := rfl
@[simp] theorem present_busClkEn (it : Item) (bytes : List Byte) (s : State) : (present it bytes s).busClkEn = s.busClkEn := rfl
@[simp] theorem present_pinsCfg (it : Item) (bytes : List Byte) (s : State) : (present it bytes s).pinsCfg = s.pinsCfg := rfl
@[simp] theorem present_cfgDone (it : Item) (bytes : List Byte) (s : State) : (present it bytes s).cfgDone = s.cfgDone := rfl
@[simp] theorem present_devPower (it : Item) (bytes : List Byte) (s : State) : (present it bytes s).devPower = s.devPower := rfl
@[simp] theorem present_hist (it : Item) (bytes : List Byte) (s : State) : (present it bytes s).hist = s.hist := rfl
@[simp] theorem present_hostPort (it : Item) (bytes : List Byte) (s : State) : (present it bytes s).hostPort = it :: s.hostPort := rfl
@[simp] theorem present_txStream (it : Item) (bytes : List Byte) (s : State) : (present it bytes s).txStream = bytes ++ s.txStream := rfl
@[simp] theorem present_slave (it : Item) (bytes : List Byte) (s : State) : (present it bytes s).slave = s.slave := rfl
@[simp] theorem present_rstAfter (it : Item) (bytes : List Byte) (s : State) : (present it bytes s).rstAfter = s.rstAfter := rfl
@[simp] theorem present_draws (it : Item) (bytes : List Byte) (s : State) : (present it bytes s).draws = s.draws := rfl
@[simp] theorem present_waited (it : Item) (bytes : List Byte) (s : State) : (present it bytes s).waited = s.waited := rfl

/-! ## The reset input -/

@[simp] theorem resetNearer_txbuf (s : State) : (resetNearer s).txbuf = s.txbuf := rfl
@[simp] theorem resetNearer_rxbuf (s : State) : (resetNearer s).rxbuf = s.rxbuf := rfl
@[simp] theorem resetNearer_shout (s : State) : (resetNearer s).shout = s.shout := rfl
@[simp] theorem resetNearer_cr (s : State) : (resetNearer s).cr = s.cr := rfl
@[simp] theorem resetNearer_txe (s : State) : (resetNearer s).txe = s.txe := rfl
@[simp] theorem resetNearer_rxne (s : State) : (resetNearer s).rxne = s.rxne := rfl
@[simp] theorem resetNearer_bsy (s : State) : (resetNearer s).bsy = s.bsy := rfl
@[simp] theorem resetNearer_ovr (s : State) : (resetNearer s).ovr = s.ovr := rfl
@[simp] theorem resetNearer_ovrArm (s : State) : (resetNearer s).ovrArm = s.ovrArm := rfl
@[simp] theorem resetNearer_csN (s : State) : (resetNearer s).csN = s.csN := rfl
@[simp] theorem resetNearer_todo (s : State) : (resetNearer s).todo = s.todo := rfl
@[simp] theorem resetNearer_op (s : State) : (resetNearer s).op = s.op := rfl
@[simp] theorem resetNearer_rxout (s : State) : (resetNearer s).rxout = s.rxout := rfl
@[simp] theorem resetNearer_encOut (s : State) : (resetNearer s).encOut = s.encOut := rfl
@[simp] theorem resetNearer_busClkEn (s : State) : (resetNearer s).busClkEn = s.busClkEn := rfl
@[simp] theorem resetNearer_pinsCfg (s : State) : (resetNearer s).pinsCfg = s.pinsCfg := rfl
@[simp] theorem resetNearer_cfgDone (s : State) : (resetNearer s).cfgDone = s.cfgDone := rfl
@[simp] theorem resetNearer_devPower (s : State) : (resetNearer s).devPower = s.devPower := rfl
@[simp] theorem resetNearer_hist (s : State) : (resetNearer s).hist = s.hist := rfl
@[simp] theorem resetNearer_hostPort (s : State) : (resetNearer s).hostPort = s.hostPort := rfl
@[simp] theorem resetNearer_txStream (s : State) : (resetNearer s).txStream = s.txStream := rfl
@[simp] theorem resetNearer_slave (s : State) : (resetNearer s).slave = s.slave := rfl
@[simp] theorem resetNearer_rstAfter (s : State) : (resetNearer s).rstAfter = pulsesNearer s.rstAfter := rfl
@[simp] theorem resetNearer_draws (s : State) : (resetNearer s).draws = s.draws := rfl
@[simp] theorem resetNearer_waited (s : State) : (resetNearer s).waited = s.waited := rfl

/-! ## Reset -/

@[simp] theorem afterReset_txbuf (s : State) : (afterReset s).txbuf = State.reset.txbuf := rfl
@[simp] theorem afterReset_rxbuf (s : State) : (afterReset s).rxbuf = State.reset.rxbuf := rfl
@[simp] theorem afterReset_shout (s : State) : (afterReset s).shout = State.reset.shout := rfl
@[simp] theorem afterReset_cr (s : State) : (afterReset s).cr = State.reset.cr := rfl
@[simp] theorem afterReset_txe (s : State) : (afterReset s).txe = State.reset.txe := rfl
@[simp] theorem afterReset_rxne (s : State) : (afterReset s).rxne = State.reset.rxne := rfl
@[simp] theorem afterReset_bsy (s : State) : (afterReset s).bsy = State.reset.bsy := rfl
@[simp] theorem afterReset_ovr (s : State) : (afterReset s).ovr = State.reset.ovr := rfl
@[simp] theorem afterReset_ovrArm (s : State) : (afterReset s).ovrArm = State.reset.ovrArm := rfl
@[simp] theorem afterReset_csN (s : State) : (afterReset s).csN = State.reset.csN := rfl
@[simp] theorem afterReset_todo (s : State) : (afterReset s).todo = State.reset.todo := rfl
@[simp] theorem afterReset_op (s : State) : (afterReset s).op = State.reset.op := rfl
@[simp] theorem afterReset_rxout (s : State) : (afterReset s).rxout = State.reset.rxout := rfl
@[simp] theorem afterReset_encOut (s : State) : (afterReset s).encOut = State.reset.encOut := rfl
@[simp] theorem afterReset_busClkEn (s : State) : (afterReset s).busClkEn = State.reset.busClkEn := rfl
@[simp] theorem afterReset_pinsCfg (s : State) : (afterReset s).pinsCfg = State.reset.pinsCfg := rfl
@[simp] theorem afterReset_cfgDone (s : State) : (afterReset s).cfgDone = State.reset.cfgDone := rfl
@[simp] theorem afterReset_devPower (s : State) : (afterReset s).devPower = State.reset.devPower := rfl
@[simp] theorem afterReset_hist (s : State) : (afterReset s).hist = State.reset.hist := rfl
@[simp] theorem afterReset_hostPort (s : State) : (afterReset s).hostPort = s.hostPort := rfl
@[simp] theorem afterReset_txStream (s : State) : (afterReset s).txStream = s.txStream := rfl
@[simp] theorem afterReset_slave (s : State) : (afterReset s).slave = s.slave.map Slave.deselect := rfl
@[simp] theorem afterReset_rstAfter (s : State) : (afterReset s).rstAfter = s.rstAfter.tail := rfl
@[simp] theorem afterReset_draws (s : State) : (afterReset s).draws = s.draws + 1 := rfl
@[simp] theorem afterReset_waited (s : State) : (afterReset s).waited = State.reset.waited := rfl

end Sys2Proof.Machine
end

