-- ==== Sys2Proof/Laws/Ops.lean ====
section
/-! SUPPORT. One lemma for each shared operation that says once everything it can do. -/

namespace Sys2Proof.Machine

/-! ## Going on -/

@[simp] theorem thenDo_next {α β : Type} (a : α) (f : α → Result β) : thenDo (.next a) f = f a := rfl

@[simp] theorem thenDo_fault {α β : Type} (e : Fault) (f : α → Result β) :
    thenDo (.fault e : Result α) f = .fault e := rfl

@[simp] theorem thenDo_refused {α β : Type} (e : Refusal) (f : α → Result β) :
    thenDo (.refused e : Result α) f = .refused e := rfl

/-- Where the whole answers a next value, the first part did and the rest went on from it. -/
theorem thenDo_eq_next {α β : Type} {r : Result α} {f : α → Result β} {b : β} :
    thenDo r f = .next b ↔ ∃ a, r = .next a ∧ f a = .next b := by
  cases r <;> simp [thenDo]

theorem thenDo_eq_refused {α β : Type} {r : Result α} {f : α → Result β} {e : Refusal} :
    thenDo r f = .refused e ↔ r = .refused e ∨ ∃ a, r = .next a ∧ f a = .refused e := by
  cases r <;> simp [thenDo]

theorem thenDo_eq_fault {α β : Type} {r : Result α} {f : α → Result β} {e : Fault} :
    thenDo r f = .fault e ↔ r = .fault e ∨ ∃ a, r = .next a ∧ f a = .fault e := by
  cases r <;> simp [thenDo]

/-! ## The access primitives -/

theorem wrDR_eq_next {v : Byte} {s t : State} :
    wrDR v s = .next t ↔ s.txe = true ∧ t = State.emit { s with txbuf := v, txe := false } (.wdr v) := by
  unfold wrDR
  split
  · rename_i h; simp [h, eq_comm]
  · rename_i h; simp [h]

theorem wrDR_never_faults (v : Byte) (s : State) (e : Fault) : wrDR v s ≠ .fault e := by
  unfold wrDR; split <;> simp

theorem wrCR_eq_next {v : CrWord} {s t : State} :
    wrCR v s = .next t ↔
      v = Config.crCfg ∧ s.cfgDone = false ∧ t = State.emit { s with cr := v, cfgDone := true } (.wcr v) := by
  unfold wrCR
  split
  · rename_i h; simp [h]
  · rename_i h
    have hv : v = Config.crCfg := by simpa using h
    split
    · rename_i h2; simp [h2]
    · rename_i h2; simp [hv, h2, eq_comm]

theorem wrCR_never_faults (v : CrWord) (s : State) (e : Fault) : wrCR v s ≠ .fault e := by
  unfold wrCR; split <;> (try split) <;> simp

/-- An access by address faults exactly where there is no register. -/
theorem busRead_faults_iff {a : Nat} {s : State} :
    (∃ e, busRead a s = .fault e) ↔ pregAt a = none := by
  unfold busRead
  split <;> simp_all

/-! ## Acceptance and completion -/

/-- Completion changes nothing while something is left to do. -/
theorem finish_of_busy {s : State} (h : s.todo ≠ []) : finish s = s := by
  unfold finish; simp [h]

/-- Completion emits DONE and leaves no operation. -/
theorem finish_of_op {s : State} {i : Instr} (h : s.todo = []) (ho : s.op = some i) :
    finish s = State.emit { s with op := none } (.done i s.rxout) := by
  unfold finish; simp [h, ho]

theorem finish_of_idle {s : State} (ho : s.op = none) : finish s = s := by
  unfold finish; split <;> simp_all

/-- Completion changes `op` only where nothing is left to do. -/
theorem finish_op_ne {s : State} (h : (finish s).op ≠ s.op) : s.todo = [] := by
  unfold finish at h; split at h <;> simp_all

/-- Everything completion can do. -/
theorem finish_cases (s : State) :
    (finish s = s ∧ (s.todo ≠ [] ∨ s.op = none)) ∨
    (∃ i, s.todo = [] ∧ s.op = some i ∧ finish s = State.emit { s with op := none } (.done i s.rxout)) := by
  by_cases h : s.todo = []
  · cases ho : s.op with
    | none => exact .inl ⟨finish_of_idle ho, .inr rfl⟩
    | some i => exact .inr ⟨i, h, rfl, finish_of_op h ho⟩
  · exact .inl ⟨finish_of_busy h, .inl h⟩

/-- Everything an acceptance can answer. -/
theorem accept_cases (i : Instr) (body : List MicroOp) (s : State) :
    (s.todo = [] ∧ accept i body s = .next (finish (latch i body s))) ∨
    (s.todo ≠ [] ∧ accept i body s = .next s) := by
  unfold accept
  by_cases h : s.todo = [] <;> simp [h]

theorem accept_of_idle (i : Instr) (body : List MicroOp) {s : State} (h : s.todo = []) :
    accept i body s = .next (finish (latch i body s)) := by
  simp [accept, h]

theorem accept_of_busy (i : Instr) (body : List MicroOp) {s : State} (h : s.todo ≠ []) :
    accept i body s = .next s := by
  simp [accept, h]

/-- Everything the acceptance of a configuring operation can answer. -/
theorem acceptConfiguring_cases (i : Instr) (body : List MicroOp) (s : State) :
    (s.todo = [] ∧ s.cfgDone = true ∧ acceptConfiguring i body s = .refused .secondConfiguration) ∨
    (s.todo = [] ∧ s.cfgDone = false ∧ acceptConfiguring i body s = .next (finish (latch i body s))) ∨
    (s.todo ≠ [] ∧ acceptConfiguring i body s = .next s) := by
  by_cases h : s.todo = []
  · cases hc : s.cfgDone <;> simp [acceptConfiguring, accept, h, hc]
  · simp [acceptConfiguring, accept, h]

/-- Everything a request to the encoder can answer. -/
theorem encodeRequest_cases (r : Byte) (s : State) :
    (s.todo = [] ∧ encodeRequest r s = .next { s with encOut := r }) ∨
    (s.todo ≠ [] ∧ encodeRequest r s = .next s) := by
  by_cases h : s.todo = [] <;> simp [encodeRequest, h]

end Sys2Proof.Machine
end

