-- ==== Sys2Proof/Laws/Step.lean ====
section
/-! SUPPORT. What a step can do, said once: the cases of `perform`, `pollStep`, `seqStep`, `engineStep`, `exec` and
`step`, which every proof about a step takes apart. -/

namespace Sys2Proof.Machine

/-! ## The sequencer -/

/-- Everything SEQ-STEP can do when it answers a next state: nothing to do, one try of a poll, or one micro-operation
performed and removed. -/
theorem seqStep_cases {s t : State} (h : seqStep s = .next t) :
    (s.todo = [] ∧ t = s) ∨
    (∃ f b rest, s.todo = .poll f b :: rest ∧ t = pollStep f b rest s) ∨
    (∃ m rest u, s.todo = m :: rest ∧ (∀ f b, m ≠ .poll f b) ∧ perform m s = .next u ∧
      t = finish { u with todo := rest }) := by
  unfold seqStep at h
  split at h
  · rename_i e; cases h; exact .inl ⟨e, rfl⟩
  · rename_i f b rest e; cases h; exact .inr (.inl ⟨f, b, rest, e, rfl⟩)
  · rename_i m rest hm e
    obtain ⟨u, hu, ht⟩ := thenDo_eq_next.mp h
    cases ht
    exact .inr (.inr ⟨m, rest, u, e, fun f b => hm f b, hu, rfl⟩)

/-- The only micro-operations that can refuse are the two writes. -/
theorem perform_refuses {m : MicroOp} {s : State} {e : Refusal} (h : perform m s = .refused e) :
    (m = .wrCRcfg ∧ s.cfgDone = true ∧ e = .secondConfiguration) ∨
    (∃ v, m = .wrDRb v ∧ s.txe = false ∧ e = .drWriteWhileFull) := by
  cases m with
  | wrCRcfg =>
    simp only [perform, wrCR, ne_eq, not_true_eq_false, if_false] at h
    split at h
    · rename_i hc; cases h; exact .inl ⟨rfl, hc, rfl⟩
    · cases h
  | wrDRb v =>
    simp only [perform, wrDR] at h
    split at h
    · cases h
    · rename_i ht; cases h; exact .inr ⟨v, rfl, by simpa using ht, rfl⟩
  | _ => simp [perform] at h

/-- No micro-operation faults (60_exceptions.md R140). -/
theorem perform_never_faults (m : MicroOp) (s : State) (e : Fault) : perform m s ≠ .fault e := by
  cases m <;> simp [perform, wrCR_never_faults, wrDR_never_faults]

/-- SEQ-STEP does not fault. -/
theorem seqStep_never_faults (s : State) (e : Fault) : seqStep s ≠ .fault e := by
  intro h
  unfold seqStep at h
  split at h
  · cases h
  · cases h
  · rcases thenDo_eq_fault.mp h with h1 | ⟨_, _, h2⟩
    · exact perform_never_faults _ _ _ h1
    · cases h2

/-! ## The engine -/

/-- Everything the engine's step can do when it answers a next state. -/
theorem engineStep_cases {s t : State} (h : engineStep s = .next t) :
    (s.bsy = false ∧ t = engineMoved (seLoad s)) ∨
    (s.bsy = true ∧ ∃ i sl, misoExchange s.shout s = .next (i, sl) ∧
      t = engineMoved (seDone i (Config.overrunByte s.draws) { s with slave := sl })) := by
  unfold engineStep at h
  split at h
  · rename_i hb
    obtain ⟨⟨i, sl⟩, hx, ht⟩ := thenDo_eq_next.mp h
    cases ht
    exact .inr ⟨hb, i, sl, hx, rfl⟩
  · rename_i hb
    cases h
    exact .inl ⟨by simpa using hb, rfl⟩

/-- Everything the exchange with the other side of the wire can answer. -/
theorem misoExchange_cases {o : Byte} {s : State} {r : Byte × Option Slave} (h : misoExchange o s = .next r) :
    (s.slave = none ∧ r = (Config.misoByte s.draws, none)) ∨
    (∃ sl i sl', s.slave = some sl ∧ Slave.exchange o (Config.misoByte s.draws) sl = .next (i, sl') ∧
      r = (i, some sl')) := by
  unfold misoExchange at h
  split at h
  · rename_i e; cases h; exact .inl ⟨e, rfl⟩
  · rename_i sl e
    obtain ⟨⟨i, sl'⟩, hx, ht⟩ := thenDo_eq_next.mp h
    cases ht
    exact .inr ⟨sl, i, sl', e, hx, rfl⟩

theorem Slave.exchange_never_faults (o any : Byte) (sl : Slave) (e : Fault) : Slave.exchange o any sl ≠ .fault e := by
  unfold Slave.exchange
  split <;> (try split) <;> simp

theorem engineStep_never_faults (s : State) (e : Fault) : engineStep s ≠ .fault e := by
  intro h
  unfold engineStep at h
  split at h
  · rcases thenDo_eq_fault.mp h with h1 | ⟨_, _, h2⟩
    · unfold misoExchange at h1
      split at h1
      · cases h1
      · rcases thenDo_eq_fault.mp h1 with h3 | ⟨_, _, h4⟩
        · exact Slave.exchange_never_faults _ _ _ _ h3
        · cases h4
    · cases h2
  · cases h

/-- The engine refuses only what the reference slave refuses (20_memory.md R60). -/
theorem engineStep_refuses {s : State} {e : Refusal} (h : engineStep s = .refused e) :
    (∃ sl, s.slave = some sl) ∧ (e = .slaveNoAutoIncrement ∨ e = .slavePastLast) := by
  unfold engineStep at h
  split at h
  · rcases thenDo_eq_refused.mp h with h1 | ⟨_, _, h2⟩
    · unfold misoExchange at h1
      split at h1
      · cases h1
      · rename_i sl hs
        refine ⟨⟨sl, hs⟩, ?_⟩
        rcases thenDo_eq_refused.mp h1 with h3 | ⟨_, _, h4⟩
        · unfold Slave.exchange at h3
          split at h3 <;> (try split at h3) <;> simp_all
        · cases h4
    · cases h2
  · cases h

/-! ## The instructions -/

/-- Everything executing an instruction can answer: not taken while an operation is in progress, refused as a second
configuration, accepted with its expansion, or answered by the encoder alone. -/
theorem exec_cases (i : Instr) (s : State) :
    (s.todo ≠ [] ∧ exec i s = .next s) ∨
    (s.todo = [] ∧ configures i = true ∧ s.cfgDone = true ∧ exec i s = .refused .secondConfiguration) ∨
    (s.todo = [] ∧ encoderResult i = none ∧ (configures i = true → s.cfgDone = false) ∧
      exec i s = .next (finish (latch i (expansion i) s))) ∨
    (∃ r, s.todo = [] ∧ encoderResult i = some r ∧ exec i s = .next { s with encOut := r }) := by
  have acc := fun i body => accept_cases i body s
  have cfg := fun i body => acceptConfiguring_cases i body s
  have enc := fun r => encodeRequest_cases r s
  cases i with
  | configureBus =>
    rcases cfg .configureBus xConfigureBus with ⟨h, hc, e⟩ | ⟨h, hc, e⟩ | ⟨h, e⟩
    · exact .inr (.inl ⟨h, rfl, hc, e⟩)
    · exact .inr (.inr (.inl ⟨h, rfl, fun _ => hc, e⟩))
    · exact .inl ⟨h, e⟩
  | initDevice =>
    rcases cfg .initDevice xInitialize with ⟨h, hc, e⟩ | ⟨h, hc, e⟩ | ⟨h, e⟩
    · exact .inr (.inl ⟨h, rfl, hc, e⟩)
    · exact .inr (.inr (.inl ⟨h, rfl, fun _ => hc, e⟩))
    · exact .inl ⟨h, e⟩
  | encRead a =>
    rcases enc (encReadByte a) with ⟨h, e⟩ | ⟨h, e⟩
    · exact .inr (.inr (.inr ⟨_, h, rfl, e⟩))
    · exact .inl ⟨h, e⟩
  | encWrite a =>
    rcases enc (encWriteByte a) with ⟨h, e⟩ | ⟨h, e⟩
    · exact .inr (.inr (.inr ⟨_, h, rfl, e⟩))
    · exact .inl ⟨h, e⟩
  | selectDevice =>
    rcases acc .selectDevice xSelectDevice with ⟨h, e⟩ | ⟨h, e⟩
    · exact .inr (.inr (.inl ⟨h, rfl, nofun, e⟩))
    · exact .inl ⟨h, e⟩
  | deselectDevice =>
    rcases acc .deselectDevice xDeselectDevice with ⟨h, e⟩ | ⟨h, e⟩
    · exact .inr (.inr (.inl ⟨h, rfl, nofun, e⟩))
    · exact .inl ⟨h, e⟩
  | transmit bs =>
    rcases acc (.transmit bs) (xTransmit bs) with ⟨h, e⟩ | ⟨h, e⟩
    · exact .inr (.inr (.inl ⟨h, rfl, nofun, e⟩))
    · exact .inl ⟨h, e⟩
  | receive n =>
    rcases acc (.receive n) (xReceive n.toNat) with ⟨h, e⟩ | ⟨h, e⟩
    · exact .inr (.inr (.inl ⟨h, rfl, nofun, e⟩))
    · exact .inl ⟨h, e⟩
  | readRegisters a n =>
    rcases acc (.readRegisters a n) (xReadRegisters a n.toNat) with ⟨h, e⟩ | ⟨h, e⟩
    · exact .inr (.inr (.inl ⟨h, rfl, nofun, e⟩))
    · exact .inl ⟨h, e⟩
  | writeRegister a v =>
    rcases acc (.writeRegister a v) (xWriteRegister a v) with ⟨h, e⟩ | ⟨h, e⟩
    · exact .inr (.inr (.inl ⟨h, rfl, nofun, e⟩))
    · exact .inl ⟨h, e⟩
  | writeFrame a v =>
    rcases acc (.writeFrame a v) (xWriteRegister a v) with ⟨h, e⟩ | ⟨h, e⟩
    · exact .inr (.inr (.inl ⟨h, rfl, nofun, e⟩))
    · exact .inl ⟨h, e⟩
  | readFrame a n =>
    rcases acc (.readFrame a n) (xReadRegisters a n.toNat) with ⟨h, e⟩ | ⟨h, e⟩
    · exact .inr (.inr (.inl ⟨h, rfl, nofun, e⟩))
    · exact .inl ⟨h, e⟩

/-! ## The machine -/

/-- A step is a reset, or one agent's move. -/
theorem step_eq (s : State) :
    step s = if resetDue s then .next (afterReset s) else agentStep (resetNearer s) := rfl

/-- Everything a step can do when it answers a next state: reset, the engine's step, SEQ-STEP, waiting in IDLE, or the
execution of the instruction the port presents. -/
theorem step_cases {s t : State} (h : step s = .next t) :
    (resetDue s = true ∧ t = afterReset s) ∨
    (engineDue (resetNearer s) = true ∧ engineStep (resetNearer s) = .next t) ∨
    (s.todo ≠ [] ∧ seqStep (engineWaits (resetNearer s)) = .next t) ∨
    (s.todo = [] ∧ fetch (engineWaits (resetNearer s)) = .nothing ∧ t = engineWaits (resetNearer s)) ∨
    (∃ i u, s.todo = [] ∧ fetch (engineWaits (resetNearer s)) = .got i u ∧ exec i u = .next t) := by
  rw [step_eq] at h
  split at h
  · rename_i hr; cases h; exact .inl ⟨hr, rfl⟩
  · unfold agentStep at h
    split at h
    · rename_i hd; exact .inr (.inl ⟨hd, h⟩)
    · have ht : (engineWaits (resetNearer s)).todo = s.todo := by simp
      unfold sequencerTurn at h
      rw [ht] at h
      split at h
      · rename_i hi
        have hi' : s.todo = [] := by simpa using hi
        unfold idleStep at h
        split at h
        · rename_i hf; cases h; exact .inr (.inr (.inr (.inl ⟨hi', hf, rfl⟩)))
        · rename_i i u hf; exact .inr (.inr (.inr (.inr ⟨i, u, hi', hf, h⟩)))
        · cases h
      · rename_i hi
        exact .inr (.inr (.inl ⟨by simpa using hi, h⟩))

/-- Taking a request from the port changes nothing else. -/
theorem fetch_got {s u : State} {i : Instr} (h : fetch s = .got i u) :
    ∃ it items rest, s.hostPort = it :: items ∧ decode it s.txStream = .ok i rest ∧
      u = { s with hostPort := items, txStream := rest } := by
  unfold fetch at h
  split at h
  · cases h
  · rename_i it items e
    split at h
    · rename_i i' rest hd; cases h; exact ⟨it, items, rest, e, hd, rfl⟩
    · cases h
    · cases h

end Sys2Proof.Machine
end

