-- ==== Sys2Proof/Laws/Phases.lean ====
section
/-! SUPPORT. The phases of an operation (Safety.lean): every expansion goes from clean to clean, keeps the order of the
configuration, and the engine's steps keep the flags of a phase. -/

namespace Sys2Proof.Machine

/-- The phases along a list are those along its first part and then along its second. -/
theorem Phase.along_append (p : Phase) (a b : List MicroOp) :
    Phase.along p (a ++ b) = (Phase.along p a).bind fun q => Phase.along q b := by
  induction a generalizing p with
  | nil => rfl
  | cons m ms ih =>
    simp only [List.cons_append, Phase.along]
    cases Phase.after p m <;> simp [ih]

/-- TRANSMIT keeps sending while it loops over its bytes. -/
theorem along_transmitLoop_sending (bs : List Byte) :
    Phase.along .sending (xTransmitLoop bs) = some .sending := by
  induction bs with
  | nil => rfl
  | cons b bs ih => simpa [xTransmitLoop, Phase.along, Phase.after] using ih

/-- TRANSMIT starts and ends clean, whatever its length (41_transport.md R110). -/
theorem along_transmit (bs : List Byte) : Phase.along .clean (xTransmit bs) = some .clean := by
  unfold xTransmit
  cases bs with
  | nil => rfl
  | cons b bs =>
    cases bs with
    | nil => rfl
    | cons c bs =>
      rw [Phase.along_append]
      simp [xTransmitLoop, Phase.along, Phase.after, along_transmitLoop_sending, xTransmitEnd]

/-- RECEIVE starts and ends clean, whatever its count (R111). -/
theorem along_receive (n : Nat) : Phase.along .clean (xReceive n) = some .clean := by
  induction n with
  | zero => rfl
  | succ n ih => simpa [xReceive, Phase.along, Phase.after] using ih

/-- The first micro-operation of a list has a phase after it. -/
theorem Phase.along_cons {p q : Phase} {m : MicroOp} {ms : List MicroOp} (h : Phase.along p (m :: ms) = some q) :
    ∃ r, Phase.after p m = some r ∧ Phase.along r ms = some q := by
  simp only [Phase.along] at h
  split at h
  · rename_i r e; exact ⟨r, e, h⟩
  · cases h

/-- READ_REGISTERS starts and ends clean (42_protocol.md R122). -/
theorem along_readRegisters (a : Byte) (n : Nat) : Phase.along .clean (xReadRegisters a n) = some .clean := by
  simp [xReadRegisters, Phase.along_append, along_transmit, along_receive, xSelectDevice, xDeselectDevice, Phase.along, Phase.after]

/-- WRITE_REGISTER starts and ends clean (R122). -/
theorem along_writeRegister (a v : Byte) : Phase.along .clean (xWriteRegister a v) = some .clean := by
  simp [xWriteRegister, Phase.along_append, along_transmit, xSelectDevice, xDeselectDevice, Phase.along, Phase.after]

/-- Every operation ends in the phase it starts in. -/
theorem along_expansion (i : Instr) : Phase.along .clean (expansion i) = some .clean := by
  cases i <;> simp only [expansion]
  case transmit => exact along_transmit _
  case receive => exact along_receive _
  case readRegisters => exact along_readRegisters _ _
  case writeRegister => exact along_writeRegister _ _
  case writeFrame => exact along_writeRegister _ _
  case readFrame => exact along_readRegisters _ _
  case initDevice => 
    simp [xInitialize, Phase.along_append, along_writeRegister, xConfigureBus, Phase.along, Phase.after]
  all_goals rfl

/-- Micro-operations that do not configure the bus do not matter to the order of its configuration. -/
theorem cfgOrder_append_plain (clk done : Bool) (a b : List MicroOp)
    (h : ∀ m ∈ a, m ≠ .extBusEn ∧ m ≠ .wrCRcfg) : cfgOrder clk done (a ++ b) = cfgOrder clk done b := by
  induction a with
  | nil => rfl
  | cons m ms ih =>
    have hm := h m (by simp)
    have := ih (fun x hx => h x (by simp [hx]))
    cases m <;> simp_all [cfgOrder]

theorem plain_transmit (bs : List Byte) : ∀ m ∈ xTransmit bs, m ≠ .extBusEn ∧ m ≠ .wrCRcfg := by
  have : ∀ m ∈ xTransmitLoop bs, m ≠ .extBusEn ∧ m ≠ .wrCRcfg := by
    induction bs with
    | nil => simp [xTransmitLoop]
    | cons b bs ih => simpa [xTransmitLoop] using ih
  intro m hm
  rcases List.mem_append.mp hm with h | h
  · exact this m h
  · simp only [xTransmitEnd, List.mem_cons, List.not_mem_nil, or_false] at h
    rcases h with rfl | rfl | rfl | rfl <;> simp
theorem plain_receive (n : Nat) : ∀ m ∈ xReceive n, m ≠ .extBusEn ∧ m ≠ .wrCRcfg := by
  induction n with
  | zero => simp [xReceive]
  | succ n ih => simpa [xReceive] using ih
theorem plain_read (a : Byte) (n : Nat) : ∀ m ∈ xReadRegisters a n, m ≠ .extBusEn ∧ m ≠ .wrCRcfg := by
  intro m hm
  simp only [xReadRegisters, List.mem_append] at hm
  rcases hm with ((h | h) | h) | h
  · simp_all [xSelectDevice]
  · exact plain_transmit _ m h
  · exact plain_receive _ m h
  · simp_all [xDeselectDevice]
theorem plain_write (a v : Byte) : ∀ m ∈ xWriteRegister a v, m ≠ .extBusEn ∧ m ≠ .wrCRcfg := by
  intro m hm
  simp only [xWriteRegister, List.mem_append] at hm
  rcases hm with (h | h) | h
  · simp_all [xSelectDevice]
  · exact plain_transmit _ m h
  · simp_all [xDeselectDevice]

theorem cfgOrder_of_plain (clk done : Bool) (a : List MicroOp)
    (h : ∀ m ∈ a, m ≠ .extBusEn ∧ m ≠ .wrCRcfg) : cfgOrder clk done a = true := by
  have := cfgOrder_append_plain clk done a [] h
  simpa [cfgOrder] using this

/-- Every expansion keeps the order of the configuration. -/
theorem cfgOrder_expansion (i : Instr) (clk done : Bool) (h : configures i = true → done = false) :
    cfgOrder clk done (expansion i) = true := by
  cases i <;> simp only [expansion]
  case transmit => exact cfgOrder_of_plain _ _ _ (plain_transmit _)
  case receive => exact cfgOrder_of_plain _ _ _ (plain_receive _)
  case readRegisters => exact cfgOrder_of_plain _ _ _ (plain_read _ _)
  case writeRegister => exact cfgOrder_of_plain _ _ _ (plain_write _ _)
  case writeFrame => exact cfgOrder_of_plain _ _ _ (plain_write _ _)
  case readFrame => exact cfgOrder_of_plain _ _ _ (plain_read _ _)
  case initDevice => 
    have := h rfl; subst this
    simp only [xInitialize, xConfigureBus, List.append_assoc, List.cons_append, List.nil_append, cfgOrder]
    simp only [Bool.not_false, Bool.and_true, Bool.true_and, Bool.true_and]
    rw [cfgOrder_append_plain _ _ _ _ (plain_write _ _), cfgOrder_append_plain _ _ _ _ (plain_write _ _)]
    simp only [cfgOrder]
    rw [cfgOrder_append_plain _ _ _ _ (plain_write _ _)]
    rfl
  case configureBus => have := h rfl; subst this; rfl
  all_goals rfl

/-- SE-LOAD keeps the flags of a phase. -/
theorem Phase.holds_seLoad (p : Phase) (s : State) (h : Phase.holds p s = true) (ht : s.txe = false) (hb : s.bsy = false) :
    Phase.holds p (seLoad s) = true := by
  cases p <;> simp_all [Phase.holds, cleanFlags, sendingFlags]

/-- SE-DONE keeps the flags of a phase. -/
theorem Phase.holds_seDone (p : Phase) (i x : Byte) (s : State) (h : Phase.holds p s = true) (hb : s.bsy = true) :
    Phase.holds p (seDone i x s) = true := by
  cases p <;> simp_all [Phase.holds, cleanFlags, sendingFlags]

/-- A phase is a matter of the five flags. -/
theorem Phase.holds_congr (p : Phase) (s t : State) (h1 : t.txe = s.txe) (h2 : t.rxne = s.rxne) (h3 : t.bsy = s.bsy)
    (h4 : t.ovr = s.ovr) (h5 : t.ovrArm = s.ovrArm) : Phase.holds p t = Phase.holds p s := by
  cases p <;> simp [Phase.holds, cleanFlags, sendingFlags, h1, h2, h3, h4, h5]

/-- The flag a poll takes from an image is the flag (R102, 10_state.md R15). -/
@[simp] theorem flagOf_srImage (f : Flag) (s : State) :
    flagOf f (srImage s) = match f with | .txe => s.txe | .rxne => s.rxne | .bsy => s.bsy := by
  unfold srImage flagOf
  cases s.bsy <;> cases s.ovr <;> cases s.txe <;> cases s.rxne <;> cases f <;> rfl

end Sys2Proof.Machine
end

