-- ==== Sys2Proof/Laws/Traces.lean ====
section
/-! SUPPORT. The projections of the history (10_state.md R23) over appended events, and what one step of an agent does
to them: `Conserve` says it once. -/

namespace Sys2Proof.Machine

/-- An ACCEPT starts the operation's events afresh, every other event is added to them. -/
theorem sinceAccept_append (h : List Event) (e : Event) :
    sinceAccept (h ++ [e]) = match e with | .accept _ => [] | _ => sinceAccept h ++ [e] := by
  cases e <;> simp [sinceAccept, List.foldl_append]

theorem histMarks_append (a b : List Event) : histMarks (a ++ b) = histMarks a ++ histMarks b := by
  simp [histMarks, registerTrace]

theorem busMarks_append (a b : List Event) : busMarks (a ++ b) = busMarks a ++ busMarks b := by
  simp [busMarks]

theorem busTrace_append (a b : List Event) : busTrace (a ++ b) = busTrace a ++ busTrace b := by
  simp [busTrace]

theorem registerTrace_append (a b : List Event) : registerTrace (a ++ b) = registerTrace a ++ registerTrace b := by
  simp [registerTrace]

theorem sentBytes_append (a b : List Event) : sentBytes (a ++ b) = sentBytes a ++ sentBytes b := by
  simp [sentBytes]

theorem writtenBytes_append (a b : List Event) : writtenBytes (a ++ b) = writtenBytes a ++ writtenBytes b := by
  simp [writtenBytes]

theorem receivedBytes_append (a b : List Event) : receivedBytes (a ++ b) = receivedBytes a ++ receivedBytes b := by
  simp [receivedBytes]

theorem todoMarks_cons (m : MicroOp) (ms : List MicroOp) : todoMarks (m :: ms) = todoMarks [m] ++ todoMarks ms := by
  simp only [todoMarks, List.filterMap_cons]; split <;> simp

theorem todoBusMarks_cons (m : MicroOp) (ms : List MicroOp) :
    todoBusMarks (m :: ms) = todoBusMarks [m] ++ todoBusMarks ms := by
  simp only [todoBusMarks, List.filterMap_cons]; split <;> simp

/-- What a move of one agent inside an operation keeps: the events it adds and the micro-operations left make up the
micro-operations there were, in the register trace and on the bus, and the ports are not touched. -/
structure Conserve (s u : State) (ev : List Event) : Prop where
  hist : u.hist = s.hist ++ ev
  marks : histMarks ev ++ todoMarks u.todo = todoMarks s.todo
  bus : busMarks ev ++ ((inFlight u).map BusMark.sent ++ todoBusMarks u.todo)
      = (inFlight s).map BusMark.sent ++ todoBusMarks s.todo
  rst : u.rstAfter = s.rstAfter
  port : u.hostPort = s.hostPort ∧ u.txStream = s.txStream

/-- The engine's step conserves the operation. -/
theorem engineStep_conserves {s u : State} (hen : engineEnabled s = true) (e : engineStep s = .next u) :
    ∃ ev, Conserve s u ev ∧ u.todo = s.todo ∧ u.op = s.op := by
  rcases engineStep_cases e with ⟨hb, rfl⟩ | ⟨hb, i, sl, hx, rfl⟩
  · have ht : s.txe = false := by
      simp [engineEnabled, loadEnabled, doneEnabled, hb] at hen; exact hen.2
    exact ⟨[.start s.txbuf], ⟨by simp, by simp [histMarks, registerTrace, regEvent],
      by simp [busMarks, Event.busMark, inFlight, hb, ht], by simp, by simp⟩, by simp, by simp⟩
  · refine ⟨.xfer s.shout i :: (bif s.txe then [] else [.start s.txbuf]), ⟨by simp, ?_, ?_, by simp, by simp⟩,
      by simp, by simp⟩
    · cases s.txe <;> simp [histMarks, registerTrace, regEvent]
    · cases h : s.txe <;> simp [busMarks, Event.busMark, inFlight, hb, h]

end Sys2Proof.Machine
end

