-- ==== Sys2Proof/Laws/PerInstr.lean ====
section
/-! SUPPORT. A statement about every instruction as syntax, one lemma per constructor: its encoding has the fixed bits
of its row of spec/opcode_table.json. -/

namespace Sys2Proof.Laws

/-- The fields of a command word made of its four fields (30_encoding.md R78). -/
theorem cwFields (op : BitVec 4) (a v n : Byte) :
    cwOp (cwMake op a v n) = op ∧ cwA (cwMake op a v n) = a ∧ cwV (cwMake op a v n) = v ∧
      cwN (cwMake op a v n) = n := by
  refine ⟨?_, ?_, ?_, ?_⟩ <;>
  · apply BitVec.eq_of_getLsbD_eq
    intro i hi
    simp only [cwOp, cwA, cwV, cwN, cwMake, BitVec.getLsbD_extractLsb', BitVec.getLsbD_append]
    have : i < 8 := by omega
    interval_cases i <;> simp_all

/-- The fixed bits of a row: OP of a command word, or RW and MB of the first word on the wire (opcode_table.json). -/
def TableMatch.rowHolds (i : Instr) (it : Item) : Prop :=
  match i, it with
  | .configureBus, .cw w => cwOp w = 1
  | .selectDevice, .cw w => cwOp w = 2
  | .deselectDevice, .cw w => cwOp w = 3
  | .transmit _, .cw w => cwOp w = 4
  | .receive _, .cw w => cwOp w = 5
  | .readRegisters _ _, .cw w => cwOp w = 6
  | .writeRegister _ _, .cw w => cwOp w = 7
  | .initDevice, .cw w => cwOp w = 8
  | .encRead _, .cmdByte b => b &&& 0xC0 = 0xC0
  | .encWrite _, .cmdByte b => b &&& 0xC0 = 0x40
  | .writeFrame _ v, .frame ws => ∃ c, ws = [c, v] ∧ c &&& 0xC0 = 0x40
  | .readFrame _ n, .frame ws => ∃ c, ws = c :: List.replicate n.toNat 0 ∧ c &&& 0xC0 = 0xC0
  | _, _ => False

/-- The encoding of a well-formed instruction is of its row. -/
def TableMatch.Statement (i : Instr) : Prop :=
  i.wellFormed = true → TableMatch.rowHolds i (encode i).1

/-- A read's command byte has RW = 1 and MB = 1. -/
theorem encReadByte_row (a : Byte) : encReadByte a &&& 0xC0 = 0xC0 := by
  revert a; decide

/-- A write's command byte has RW = 0 and MB = 1, within the contract. -/
theorem encWriteByte_row (a : Byte) (h : addrFits a = true) : encWriteByte a &&& 0xC0 = 0x40 := by
  revert a; decide

theorem TableMatch.configureBus : Statement .configureBus := fun _ => (cwFields 1 0 0 0).1
theorem TableMatch.selectDevice : Statement .selectDevice := fun _ => (cwFields 2 0 0 0).1
theorem TableMatch.deselectDevice : Statement .deselectDevice := fun _ => (cwFields 3 0 0 0).1
theorem TableMatch.transmit (bytes : List Byte) : Statement (.transmit bytes) := fun _ => (cwFields 4 0 0 _).1
theorem TableMatch.receive (n : Byte) : Statement (.receive n) := fun _ => (cwFields 5 0 0 n).1
theorem TableMatch.readRegisters (a n : Byte) : Statement (.readRegisters a n) := fun _ => (cwFields 6 a 0 n).1
theorem TableMatch.writeRegister (a v : Byte) : Statement (.writeRegister a v) := fun _ => (cwFields 7 a v 0).1
theorem TableMatch.initDevice : Statement .initDevice := fun _ => (cwFields 8 0 0 0).1
theorem TableMatch.encRead (a : Byte) : Statement (.encRead a) := fun _ => encReadByte_row a
theorem TableMatch.encWrite (a : Byte) : Statement (.encWrite a) := fun h => encWriteByte_row a h
theorem TableMatch.writeFrame (a v : Byte) : Statement (.writeFrame a v) :=
  fun h => ⟨_, rfl, encWriteByte_row a h⟩
theorem TableMatch.readFrame (a n : Byte) : Statement (.readFrame a n) := fun _ => ⟨_, rfl, encReadByte_row a⟩

end Sys2Proof.Laws
end

