-- ==== Sys2Proof/Tests/Slice0.lean ====
section
/-! SUPPORT. Tests on single steps, their expected results from 95_test_vectors.md and the rules, and for every
statement of the package that has hypotheses a state and operands that meet them. -/

namespace Sys2Proof.Tests

open Sys2Proof Sys2Proof.Machine

/-! ## Helpers -/

/-- The next state, where there is one. -/
def nextOf {α : Type} : Result α → Option α
  | .next a => some a
  | .fault _ => none
  | .refused _ => none

/-- The refusal, where there is one. -/
def refusalOfResult {α : Type} : Result α → Option Refusal
  | .next _ => none
  | .fault _ => none
  | .refused e => some e

/-- The clean IDLE state after CONFIGURE_BUS (95_test_vectors.md, its lead-in). -/
def ready : State := { State.reset with busClkEn := true, cr := 0x034F, cfgDone := true }

/-- The same with the pins configured and the reference slave plugged in, its register 0x2D at 0x11. -/
def wired : State :=
  { ready with
    pinsCfg := true
    slave := some { regs := [(0x2D, 0x11)], ptr := 0, mode := .idleS, mb := false } }

/-- An idle state before the configuration, with a byte offered on the stream port. -/
def unconfigured : State := { State.reset with txStream := [0xF2] }

/-- The flags in V15's order. -/
def flags (s : State) : Bool × Bool × Bool × Bool × Bool := (s.txe, s.rxne, s.bsy, s.ovr, s.ovrArm)

/-- A configured state with V15's flags and registers. -/
def v15 (f : Bool × Bool × Bool × Bool × Bool) (tx rx sh : Byte) : State :=
  { ready with
    txe := f.1, rxne := f.2.1, bsy := f.2.2.1, ovr := f.2.2.2.1, ovrArm := f.2.2.2.2
    txbuf := tx, rxbuf := rx, shout := sh }

/-! ## WellFormed: an ill-formed term for each check -/

/-- 256 bytes do not fit the N field (R107). -/
theorem test_long_transmit_is_ill_formed : (Instr.transmit (List.replicate 256 0)).wellFormed = false := by
  simp only [Instr.wellFormed, lengthFits, List.length_replicate]
  decide

/-- Address 64 does not fit the six bits of a command byte (R71, R72, R75, R76). -/
theorem test_wide_address_is_ill_formed_on_the_wire :
    (Instr.encRead 64).wellFormed = false ∧ (Instr.encWrite 64).wellFormed = false ∧
    (Instr.writeFrame 64 0).wellFormed = false ∧ (Instr.readFrame 64 0).wellFormed = false := by decide

/-- The limits are well-formed: 255 bytes, address 63, and any address in the A field of a host command. -/
theorem test_limits_are_well_formed :
    (Instr.transmit (List.replicate 255 0)).wellFormed = true ∧ (Instr.encRead 63).wellFormed = true ∧
    (Instr.encWrite 63).wellFormed = true ∧ (Instr.writeFrame 63 255).wellFormed = true ∧
    (Instr.readFrame 63 255).wellFormed = true ∧ (Instr.readRegisters 255 255).wellFormed = true := by
  simp only [Instr.wellFormed, lengthFits, List.length_replicate]
  decide

/-! ## Decoding: words written out from the encodings (V11, V12, R70 to R76) -/

theorem test_decode_configure_bus : decode (.cw 0x1000000) [] = .ok .configureBus [] := by decide
theorem test_decode_configure_bus_ignores_fields : decode (.cw 0x1ABCDEF) [] = .ok .configureBus [] := by decide
theorem test_decode_select : decode (.cw 0x2000000) [] = .ok .selectDevice [] := by decide
theorem test_decode_deselect : decode (.cw 0x3000000) [] = .ok .deselectDevice [] := by decide
theorem test_decode_transmit :
    decode (.cw 0x4000002) [0x6D, 0x08, 0xAA] = .ok (.transmit [0x6D, 0x08]) [0xAA] := by decide
theorem test_decode_transmit_waits_for_its_bytes : decode (.cw 0x4000002) [0x6D] = .short := by decide
theorem test_decode_receive : decode (.cw 0x5000006) [] = .ok (.receive 6) [] := by decide
theorem test_decode_read_registers : decode (.cw 0x6320006) [] = .ok (.readRegisters 0x32 6) [] := by decide
theorem test_decode_write_register : decode (.cw 0x72D08FF) [] = .ok (.writeRegister 0x2D 0x08) [] := by decide
theorem test_decode_init : decode (.cw 0x8000000) [] = .ok .initDevice [] := by decide
/-- `11aaaaaa` with a = 0x32 (R71). -/
theorem test_decode_enc_read : decode (.cmdByte 0b11110010) [] = .ok (.encRead 0x32) [] := by decide
/-- `01aaaaaa` with a = 0x2D (R72). -/
theorem test_decode_enc_write : decode (.cmdByte 0b01101101) [] = .ok (.encWrite 0x2D) [] := by decide
/-- `01aaaaaa vvvvvvvv` with a = 0x2D, v = 0x08 (R75). -/
theorem test_decode_write_frame :
    decode (.frame [0b01101101, 0b00001000]) [] = .ok (.writeFrame 0x2D 0x08) [] := by decide
/-- `11aaaaaa` and two zero words with a = 0x3F (R76). -/
theorem test_decode_read_frame :
    decode (.frame [0b11111111, 0, 0]) [] = .ok (.readFrame 0x3F 2) [] := by decide

/-- V13: reserved selectors. -/
theorem test_decode_reserved_selectors :
    decode (.cw 0x0000000) [] = .reject (.reservedSelector 0) ∧
    decode (.cw 0x9000000) [] = .reject (.reservedSelector 9) ∧
    decode (.cw 0xA123456) [] = .reject (.reservedSelector 0xA) ∧
    decode (.cw 0xF000000) [] = .reject (.reservedSelector 0xF) := by decide

/-- R73, R85: a byte with MB = 0 is no command byte, and words that are no frame are none. -/
theorem test_decode_rejects_other_wire_words :
    decode (.cmdByte 0x3F) [] = .reject (.noCommandByte 0x3F) ∧
    decode (.cmdByte 0x80) [] = .reject (.noCommandByte 0x80) ∧
    decode (.frame []) [] = .reject .noFrame ∧
    decode (.frame [0x6D]) [] = .reject .noFrame ∧
    decode (.frame [0xF2, 1]) [] = .reject .noFrame := by decide

/-- The opcode table's numbering: 28 bits, 8 bits, and 16 bits with the first word sent at the left. -/
theorem test_table_words :
    decodeTableWord 28 0x72D0800 = some (.writeRegister 0x2D 0x08) ∧
    decodeTableWord 32 0x5000001 = some (.receive 1) ∧
    decodeTableWord 8 0xF2 = some (.encRead 0x32) ∧
    decodeTableWord 8 0x6D = some (.encWrite 0x2D) ∧
    decodeTableWord 16 0x6D08 = some (.writeFrame 0x2D 0x08) ∧
    decodeTableWord 28 0x0000000 = none := by decide

/-- V11: the command words of the encoder. -/
theorem test_encode_command_words :
    encode (.transmit [0x6D, 0x08]) = (.cw 0x4000002, [0x6D, 0x08]) ∧
    encode (.readRegisters 0x2D 1) = (.cw 0x62D0001, []) ∧
    encode (.writeRegister 0x31 0x01) = (.cw 0x7310100, []) ∧
    encode .initDevice = (.cw 0x8000000, []) := by decide

/-- V1, V3: the two encoders inside and outside the contract. -/
theorem test_encoder_bytes :
    encReadByte 0x00 = 0xC0 ∧ encReadByte 0x1F = 0xDF ∧ encReadByte 0x3F = 0xFF ∧
    encWriteByte 0x20 = 0x60 ∧ encWriteByte 0x37 = 0x77 ∧ encWriteByte 0x3F = 0x7F ∧
    encReadByte 0x72 = 0xF2 ∧ encWriteByte 0x80 = 0xC0 ∧ encWriteByte 0xAD = 0xED := by decide

/-! ## Register accesses and engine steps (V14, V15) -/

/-- V14: images of SR. -/
theorem test_status_images :
    srImage State.reset = 0x02 ∧ srImage (v15 (true, false, true, false, false) 0 0 0) = 0x82 ∧
    srImage (v15 (false, true, true, false, false) 0 0 0) = 0x81 ∧
    srImage (v15 (true, true, false, true, false) 0 0 0) = 0x43 := by decide

theorem test_wrDR : (nextOf (wrDR 0x6D ready)).map (fun t => (flags t, t.txbuf, t.hist)) =
    some ((false, false, false, false, false), 0x6D, [.wdr 0x6D]) := by decide

theorem test_seLoad : (nextOf (engineStep (v15 (false, false, false, false, false) 0x6D 1 2))).map
    (fun t => (flags t, t.txbuf, t.shout, t.hist)) =
    some ((true, false, true, false, false), 0x6D, 0x6D, [.start 0x6D]) := by decide

/-- V15's third row: the byte of MISO reaches RXBUF, RXNE is set and BSY cleared. -/
theorem test_seDone_last_word (i : Byte) :
    (flags (seDone i 0 (v15 (true, false, true, false, false) 0 0 0x6D)),
      (seDone i 0 (v15 (true, false, true, false, false) 0 0 0x6D)).rxbuf,
      (seDone i 0 (v15 (true, false, true, false, false) 0 0 0x6D)).hist) =
    ((true, true, false, false, false), i, [.xfer 0x6D i]) := rfl

/-- V15's fourth row: a waiting byte is taken without a gap. -/
theorem test_seDone_goes_on (i : Byte) :
    (flags (seDone i 0 (v15 (false, false, true, false, false) 0x08 0 0x6D)),
      (seDone i 0 (v15 (false, false, true, false, false) 0x08 0 0x6D)).shout,
      (seDone i 0 (v15 (false, false, true, false, false) 0x08 0 0x6D)).hist) =
    ((true, true, true, false, false), 0x08, [.xfer 0x6D i, .start 0x08]) := rfl

/-- V15's fifth row: overrun. -/
theorem test_seDone_overrun (i x : Byte) :
    (flags (seDone i x (v15 (true, true, true, false, false) 0 0x55 0x08)),
      (seDone i x (v15 (true, true, true, false, false) 0 0x55 0x08)).rxbuf) =
    ((true, true, false, true, false), x) := rfl

theorem test_rdDR_arms :
    (rdDR (v15 (true, true, false, true, false) 0 0x77 0)).1 = 0x77 ∧
    flags (rdDR (v15 (true, true, false, true, false) 0 0x77 0)).2 = (true, false, false, true, true) := by decide

theorem test_rdSR_completes_the_drain :
    (rdSR .drain (v15 (true, false, false, true, true) 0 0 0)).1 = 0x42 ∧
    flags (rdSR .drain (v15 (true, false, false, true, true) 0 0 0)).2 = (true, false, false, false, false) := by
  decide

/-- An SR read with no DR read before it clears nothing. -/
theorem test_rdSR_alone_clears_nothing :
    (rdSR .drain (v15 (true, true, false, true, false) 0 0 0)).1 = 0x43 ∧
    flags (rdSR .drain (v15 (true, true, false, true, false) 0 0 0)).2 = (true, true, false, true, false) := by decide

/-- V15's last two rows: the engine is off before the configuration, and on after WrCR. -/
theorem test_engine_on_and_off :
    engineEnabled { State.reset with txe := false, txbuf := 0x6D } = false ∧
    (nextOf (wrCR 0x034F { State.reset with busClkEn := true })).map (fun t => (t.cr, t.cfgDone, seOn t)) =
      some (0x034F, true, true) := by decide

/-- V45: the slave takes a write and answers a read. -/
theorem test_slave_write_then_read :
    (nextOf (Slave.exchange 0x08 0 ⟨[], 0x2D, .wr, true⟩)).map (fun r => (r.2.regs, r.2.ptr)) =
      some ([(0x2D, 0x08)], 0x2E) ∧
    (nextOf (Slave.exchange 0x00 0 ⟨[(0x2D, 0x08)], 0x2D, .rd, true⟩)).map (fun r => (r.1, r.2.ptr)) =
      some (0x08, 0x2E) := by decide

/-- V45: the command byte selects the register and the direction, and one with bit 6 clear is refused. -/
theorem test_slave_command_byte :
    (nextOf (Slave.exchange 0x6D 0 ⟨[], 0, .cmd, false⟩)).map (fun r => (r.2.ptr, r.2.mode)) =
      some (0x2D, .wr) ∧
    (nextOf (Slave.exchange 0xED 0 ⟨[], 0, .cmd, false⟩)).map (fun r => (r.2.ptr, r.2.mode)) =
      some (0x2D, .rd) ∧
    refusalOfResult (Slave.exchange 0x2D 0 ⟨[], 0, .cmd, false⟩) = some .slaveNoAutoIncrement := by decide

/-- Writing zero removes the cell, so that equal memories are equal data. -/
theorem test_memory_stays_canonical :
    Memory.write (Memory.write (Memory.write [] 5 1) 3 2) 5 0 = [(3, 2)] ∧
    Memory.write (Memory.write [] 5 1) 3 2 = [(3, 2), (5, 1)] := by decide

/-! ## One step of each instruction -/

/-- V16: its first micro-operation is the bus clock enable. -/
theorem test_configure_bus : (nextOf (exec .configureBus State.reset)).map (fun t => (t.todo, t.hist)) =
    some ([.extBusEn, .wrCRcfg], [.accept .configureBus]) := by decide

/-- V18: a second one is refused. -/
theorem test_configure_bus_twice : refusalOfResult (exec .configureBus ready) = some .secondConfiguration := by decide

/-- V17: the line goes low and the operation ends. -/
theorem test_select : (nextOf (exec .selectDevice ready)).bind (fun t => (nextOf (step t)).map
    (fun u => (u.csN, cleanIdle u, u.hist))) =
    some (false, true, [.accept .selectDevice, .csAssert, .done .selectDevice []]) := by decide

/-- V17: the line goes high. -/
theorem test_deselect : (nextOf (exec .deselectDevice { ready with csN := false })).bind
    (fun t => (nextOf (step t)).map (fun u => (u.csN, u.hist))) =
    some (true, [.accept .deselectDevice, .csDeassert, .done .deselectDevice []]) := by decide

/-- V20's expansion. -/
theorem test_transmit : (nextOf (exec (.transmit [0xF2]) ready)).map (fun t => t.todo) =
    some [.poll .txe true, .wrDRb 0xF2, .poll .txe true, .poll .bsy false, .rdDRdrop, .rdSRdrop] := by decide

/-- V21's expansion. -/
theorem test_transmit_nothing : (nextOf (exec (.transmit []) ready)).map (fun t => t.todo) =
    some [.poll .txe true, .poll .bsy false, .rdDRdrop, .rdSRdrop] := by decide

/-- V28: ACCEPT and DONE only, before the configuration too. -/
theorem test_receive_nothing : (nextOf (exec (.receive 0) State.reset)).map (fun t => (t.todo, t.op, t.hist)) =
    some ([], none, [.accept (.receive 0), .done (.receive 0) []]) := by decide

theorem test_receive_one : (nextOf (exec (.receive 1) ready)).map (fun t => t.todo) =
    some [.wrDRb 0x00, .poll .rxne true, .rdDRkeep] := by decide

/-- V36a: 11 micro-operations, the command byte 0xC0. -/
theorem test_read_registers : (nextOf (exec (.readRegisters 0x00 1) ready)).map
    (fun t => (t.todo.length, t.todo[2]?)) = some (11, some (.wrDRb 0xC0)) := by decide

/-- V37: 10 micro-operations, the frame bytes 0x6D and 0x08. -/
theorem test_write_register : (nextOf (exec (.writeRegister 0x2D 0x08) ready)).map
    (fun t => (t.todo.length, t.todo[2]?, t.todo[4]?)) =
    some (10, some (.wrDRb 0x6D), some (.wrDRb 0x08)) := by decide

/-- V3: a write to 0xAD goes out as a read command byte. -/
theorem test_write_register_out_of_range : (nextOf (exec (.writeRegister 0xAD 0x08) ready)).map
    (fun t => t.todo[2]?) = some (some (.wrDRb 0xED)) := by decide

/-- P1: 33 hardware micro-operations and 2 ghosts, pins and bus first. -/
theorem test_init : (nextOf (exec .initDevice State.reset)).map (fun t => (t.todo.length, t.todo.take 3)) =
    some (35, [.extPins, .extBusEn, .wrCRcfg]) := by decide

theorem test_init_twice : refusalOfResult (exec .initDevice ready) = some .secondConfiguration := by decide

theorem test_enc_read : (nextOf (exec (.encRead 0x32) ready)).map (fun t => (t.encOut, t.hist)) =
    some (0xF2, []) := by decide

theorem test_enc_write : (nextOf (exec (.encWrite 0x2D) ready)).map (fun t => (t.encOut, t.hist)) =
    some (0x6D, []) := by decide

theorem test_write_frame : (nextOf (exec (.writeFrame 0x2D 0x08) ready)).map
    (fun t => t.todo.filterMap MicroOp.busMark) =
    some [.cs false, .sent 0x6D, .sent 0x08, .cs true] := by decide

theorem test_read_frame : (nextOf (exec (.readFrame 0x32 2) ready)).map
    (fun t => t.todo.filterMap MicroOp.busMark) =
    some [.cs false, .sent 0xF2, .sent 0x00, .sent 0x00, .cs true] := by decide

/-- V38: the second poll of a TRANSMIT before the configuration finds 0x00 and stays. -/
theorem test_poll_spins_before_configuration :
    (nextOf (step { State.reset with
      txe := false, txbuf := 0xF2, op := some (.transmit [0xF2]), todo := xTransmitEnd })).map
      (fun t => (t.todo, t.hist)) =
    some (xTransmitEnd, [.rsr 0x00 (.failed .txe true)]) := by decide

set_option maxRecDepth 4000 in
/-- The instruction of a table word is the first to run after reset. -/
theorem test_first_instruction_after_reset :
    (nextOf (step (State.reset.withFetchWord 28 0x3000000))).map (fun t => t.hist) =
      some [.accept .deselectDevice] ∧
    (nextOf (step (State.reset.withFetchWord 28 0x4000001))).map (fun t => (t.op, t.txStream)) =
      some (some (.transmit [0]), []) := by decide

/-- V41: reset out of a hang. -/
theorem test_reset_out_of_a_hang :
    nextOf (step { State.reset with
      csN := false, txe := false, txbuf := 0xF2, op := some (.readRegisters 0x32 6), todo := xTransmitEnd
      hist := [.csAssert], rstAfter := [0] }) = some { State.reset with draws := 1 } := by decide

/-- R162: a second pulse resets the block again. -/
theorem test_reset_again :
    (nextOf (step { unconfigured with csN := false, rstAfter := [0, 0] })).map (fun t => (t.rstAfter, t.csN)) =
      some ([0], true) ∧
    (nextOf (step { unconfigured with csN := false, rstAfter := [1, 0] })).map (fun t => (t.rstAfter, t.csN)) =
      some ([0, 0], false) := by decide

/-! ## The wire and the samples -/

/-- V43: what is sampled on MOSI for 0x6D, and on MISO for 0xE5. -/
theorem test_wire_bits :
    samples Edge.mosi (wordWave 0x6D 0xE5) = [false, true, true, false, true, true, false, true] ∧
    samples Edge.miso (wordWave 0x6D 0xE5) = [true, true, true, false, false, true, false, true] := by decide

/-- V44. -/
theorem test_samples :
    sampleAxis [0xFF, 0x7F, 0x01, 0x00, 0x00, 0x01] 0 = some 32767 ∧
    sampleAxis [0xFF, 0x7F, 0x01, 0x00, 0x00, 0x01] 1 = some 1 ∧
    sampleAxis [0xFF, 0x7F, 0x01, 0x00, 0x00, 0x01] 2 = some 256 ∧
    sampleAxis [0x0C, 0xFE] 0 = some (-500) := by decide

/-! ## The pins -/

/-- R19, R24: the CS_n pin is undefined before the pins are configured, and high in the wired idle state. -/
theorem test_pins : csPin State.reset = none ∧ csPin wired = some true ∧ sckIdlePin wired = some true := by decide

/-! ## Witnesses: the hypotheses of every statement that has some, met together -/

/-- A TRANSMIT of nothing, accepted and about to pass its first poll. -/
def polling : State :=
  { ready with op := some (.transmit []), todo := xTransmitEnd, hist := [.accept (.transmit [])] }

/-- The same state at the moment the engine's delay is over, whatever the delay is. -/
def due (s : State) : State := { s with waited := Config.engineDelay s.draws }

theorem engineDue_due {s : State} (h : engineEnabled s = true) : engineDue (due s) = true := by
  have e : engineEnabled (due s) = engineEnabled s := rfl
  rw [engineDue, e, h]; simp [due]

/-- Then the step is the engine's. -/
theorem step_due {s : State} (h : engineEnabled s = true) (h0 : resetDue s = false) :
    step (due s) = engineStep (resetNearer (due s)) := by
  have e : engineDue (resetNearer (due s)) = engineDue (due s) := rfl
  have e0 : resetDue (due s) = resetDue s := rfl
  simp [step_eq, agentStep, e, e0, engineDue_due h, h0]

/-- A byte waits in TXBUF. -/
def loading : State := v15 (false, false, false, false, false) 0x6D 0 0

/-- A data word of a read frame is on the wire. -/
def answered : State :=
  { ready with bsy := true, slave := some { regs := [(0x2D, 0x11)], ptr := 0x2D, mode := .rd, mb := true } }

/-- A TRANSMIT sends a byte with bit 6 clear as the first word to a selected slave. -/
def rawByte : State :=
  { wired with
    bsy := true, shout := 0x2D, slave := some { regs := [], ptr := 0, mode := .cmd, mb := false }
    op := some (.transmit [0x2D]), todo := xTransmitEnd }

/-- `ready` with one item on the request port. -/
def offering (it : Item) (bytes : List Byte) : State := { ready with hostPort := [it], txStream := bytes }

theorem ready_inv : Inv ready :=
  ⟨by decide, by decide, by decide, by decide, ⟨.clean, by decide, by decide⟩, by decide⟩

theorem wired_inv : Inv wired :=
  ⟨by decide, by decide, by decide, by decide, ⟨.clean, by decide, by decide⟩, by decide⟩

theorem unconfigured_inv : Inv unconfigured :=
  ⟨by decide, by decide, by decide, by decide, ⟨.clean, by decide, by decide⟩, by decide⟩

theorem polling_inv : Inv polling :=
  ⟨by decide, by decide, by decide, by decide, ⟨.clean, by decide, by decide⟩, by decide⟩

theorem ready_ready : Ready ready := ⟨ready_inv, rfl, rfl⟩

theorem wired_ready : Ready wired := ⟨wired_inv, rfl, rfl⟩

theorem unconfigured_ready : Ready unconfigured := ⟨unconfigured_inv, rfl, rfl⟩

theorem witness_DecodeOfEncodeIsTheInstruction :
    (Instr.readFrame 63 255).wellFormed = true ∧ (Instr.transmit [1, 2]).wellFormed = true ∧
    (Instr.writeRegister 255 255).wellFormed = true := by decide

theorem witness_EncodersGiveTheCommandByte : addrFits 0 = true ∧ addrFits 63 = true := by decide

theorem witness_AddressOutOfRangeIsComputed : ready.todo = [] ∧ addrFits 64 = false := by decide

/-- The reserved selectors at both ends, and a port that presents one. -/
theorem witness_SelectorsAndIgnoredFields :
    ((0 : BitVec 4) = 0 ∨ 9 ≤ (0 : BitVec 4).toNat) ∧ ((9 : BitVec 4) = 0 ∨ 9 ≤ (9 : BitVec 4).toNat) ∧
    ((15 : BitVec 4) = 0 ∨ 9 ≤ (15 : BitVec 4).toNat) ∧
    (offering (.cw (cwMake 9 1 2 3)) []).hostPort = .cw (cwMake 9 1 2 3) :: [] := by decide

/-- A TRANSMIT whose bytes are exactly the offered ones, and one of none. -/
theorem witness_TransmitTakesItsBytesFromTheStream :
    ((offering (.cw (cwMake 4 0 0 2)) [7, 8]).todo = [] ∧
      (offering (.cw (cwMake 4 0 0 2)) [7, 8]).hostPort = .cw (cwMake 4 0 0 2) :: [] ∧
      (2 : Byte).toNat ≤ (offering (.cw (cwMake 4 0 0 2)) [7, 8]).txStream.length) ∧
    ((offering (.cw (cwMake 4 0 0 0)) []).hostPort = .cw (cwMake 4 0 0 0) :: [] ∧
      (0 : Byte).toNat ≤ (offering (.cw (cwMake 4 0 0 0)) []).txStream.length) := by decide

/-- The engine's turn; SEQ-STEP with a pulse of rst_n to come; waiting with nothing presented; a request executed, one
whose bytes are missing, and one that names no operation. -/
theorem witness_StepRunsThePresentedInstruction :
    (resetDue (due loading) = false ∧ engineDue (due loading) = true) ∧
    (∃ s : State, resetDue s = false ∧ s.rstAfter = [1, 0] ∧ engineDue s = false ∧ s.todo ≠ []) ∧
    (resetDue ready = false ∧ engineDue ready = false ∧ ready.todo = [] ∧ ready.hostPort = []) ∧
    (∃ s : State, resetDue s = false ∧ engineDue s = false ∧ s.todo = [] ∧ s.hostPort = [Item.cw 0x2000000] ∧
      decode (.cw 0x2000000) s.txStream = .ok .selectDevice []) ∧
    (∃ s : State, resetDue s = false ∧ engineDue s = false ∧ s.todo = [] ∧ s.hostPort = [Item.cw 0x4000002] ∧
      decode (.cw 0x4000002) s.txStream = .short) ∧
    (∃ s : State, resetDue s = false ∧ engineDue s = false ∧ s.todo = [] ∧ s.hostPort = [Item.cw 0x9000000] ∧
      decode (.cw 0x9000000) s.txStream = .reject (.reservedSelector 9)) :=
  ⟨⟨rfl, engineDue_due rfl⟩, ⟨{ polling with rstAfter := [1, 0] }, rfl, rfl, rfl, by decide⟩, ⟨rfl, rfl, rfl, rfl⟩,
    ⟨offering (.cw 0x2000000) [], rfl, rfl, rfl, rfl, rfl⟩, ⟨offering (.cw 0x4000002) [7], rfl, rfl, rfl, rfl, rfl⟩,
    ⟨offering (.cw 0x9000000) [], rfl, rfl, rfl, rfl, rfl⟩⟩

theorem witness_PresentedTableWordRunsNext :
    unconfigured.todo = [] ∧ engineEnabled unconfigured = false ∧ unconfigured.rstAfter = [] ∧
    decodeTableWord 28 0x72D0800 = some (.writeRegister 0x2D 0x08) := by decide

theorem witness_BusySequencerAcceptsNothing : polling.todo ≠ [] := by decide

theorem witness_ConfigureBusIsAccepted : unconfigured.todo = [] ∧ unconfigured.cfgDone = false := by decide

theorem witness_SelectAndDeselectAreAccepted : ready.todo = [] := rfl

theorem witness_TransmitIsAccepted : ready.todo = [] := rfl

/-- For both clauses. -/
theorem witness_ReceiveIsAccepted : ready.todo = [] ∧ (1 : Byte) ≠ 0 ∧ (255 : Byte) ≠ 0 ∧ (0 : Byte) = 0 := by decide

theorem witness_ReadRegistersIsAccepted : ready.todo = [] := rfl

theorem witness_WriteRegisterIsAccepted : ready.todo = [] := rfl

theorem witness_InitializeIsAccepted : unconfigured.todo = [] ∧ unconfigured.cfgDone = false := by decide

theorem witness_EncoderRequestsGiveTheirByte : ready.todo = [] := rfl

theorem witness_FramesAreAccepted : ready.todo = [] := rfl

theorem witness_SecondConfigurationIsRefused : ready.todo = [] ∧ ready.cfgDone = true := by decide

/-- An operation with a plugged-in device, and a request to the encoder alone. -/
theorem witness_ExecutionLeavesTheRestUnchanged :
    (∃ t sl, exec (.writeRegister 63 255) wired = .next t ∧ encoderResult (.writeRegister 63 255) = none ∧
      wired.slave = some sl) ∧
    (∃ t, exec (.encRead 63) wired = .next t ∧ encoderResult (.encRead 63) ≠ none) :=
  ⟨⟨_, _, rfl, rfl, rfl⟩, ⟨_, rfl, by decide⟩⟩

theorem witness_ReadOfDR : ready.rxne = false ∧ ready.ovr = false := by decide

theorem witness_WriteOfDR :
    ready.txe = true ∧ (∃ t, wrDR 0xFF ready = .next t ∧ seOn ready = true ∧ ready.bsy = false) ∧
    (v15 (false, false, true, false, false) 1 2 3).txe = false :=
  ⟨rfl, ⟨_, rfl, rfl, rfl⟩, rfl⟩

theorem witness_ReadOfSR :
    (v15 (true, false, false, true, true) 0 0 0).ovrArm = true ∧ ready.ovrArm = false ∧
    (v15 (true, true, false, true, false) 0 0 0).ovr = true ∧
    (v15 (true, true, false, true, false) 0 0 0).ovrArm = false := by decide

theorem witness_WriteOfCR :
    unconfigured.cfgDone = false ∧
    (∃ s t : State, s.busClkEn = true ∧ wrCR 0x034F s = .next t) ∧
    ((0xFFFF : CrWord) ≠ 0x034F ∧ (0x034E : CrWord) ≠ 0x034F) ∧ ready.cfgDone = true :=
  ⟨rfl, ⟨{ unconfigured with busClkEn := true }, _, rfl, rfl⟩, by decide, rfl⟩

/-- The addresses on both sides of DR's are no register's. -/
theorem witness_PeripheralRegisterMap :
    (Config.spiBase + 0x0D ≠ Config.spiBase + 0x00 ∧ Config.spiBase + 0x0D ≠ Config.spiBase + 0x08 ∧
      Config.spiBase + 0x0D ≠ Config.spiBase + 0x0C) ∧
    (Config.spiBase + 0x0B ≠ Config.spiBase + 0x00 ∧ Config.spiBase + 0x0B ≠ Config.spiBase + 0x08 ∧
      Config.spiBase + 0x0B ≠ Config.spiBase + 0x0C) := by omega

/-- A state for each micro-operation. -/
theorem witness_MicroOperationsOfTheTable :
    ([MicroOp.extPins] : List MicroOp) ≠ [] ∧
    (∀ m : MicroOp, ∃ s : State, s.todo = m :: [.extPins] ∧ s.cfgDone = false ∧ s.txe = true) ∧
    (∃ t, seqStep { unconfigured with todo := [.cs false, .cs true] } = .next t) :=
  ⟨by decide, fun m => ⟨{ unconfigured with todo := [m, .extPins] }, rfl, rfl, rfl⟩, ⟨_, rfl⟩⟩

/-- A poll that passes and one that spins. -/
theorem witness_PollPassesOrSpins :
    (polling.todo = .poll .txe true :: [.poll .bsy false, .rdDRdrop, .rdSRdrop] ∧ flagOf .txe (srImage polling) = true) ∧
    (∃ s : State, s.todo = .poll .rxne true :: [.rdDRkeep] ∧ flagOf .rxne (srImage s) ≠ true) :=
  ⟨by decide, ⟨{ ready with todo := [.poll .rxne true, .rdDRkeep] }, rfl, by decide⟩⟩

/-- A last micro-operation that is no poll, and one that is a poll and passes. -/
theorem witness_LastMicroOperationCompletes :
    (∃ s u : State, s.todo = [MicroOp.cs true] ∧ s.op = some .deselectDevice ∧
      (∀ f b, MicroOp.cs true ≠ .poll f b) ∧ perform (.cs true) s = .next u) ∧
    (∃ s : State, s.todo = [MicroOp.poll .txe true] ∧ s.op = some .deselectDevice ∧
      flagOf .txe (srImage s) = true) :=
  ⟨⟨{ ready with todo := [.cs true], op := some .deselectDevice }, _, rfl, rfl, by simp, rfl⟩,
    ⟨{ ready with todo := [.poll .txe true], op := some .deselectDevice }, rfl, rfl, by decide⟩⟩

theorem witness_EngineLoads : loadEnabled (v15 (false, false, false, false, false) 0x6D 0 0) = true := by decide

/-- With nothing waiting and nothing unread, with a byte waiting, with a byte unread, and with a slave that refuses. -/
theorem witness_EngineCompletesAWord :
    (∃ i sl, doneEnabled (v15 (true, false, true, false, false) 0 0 1) = true ∧
      misoExchange 1 (v15 (true, false, true, false, false) 0 0 1) = .next (i, sl)) ∧
    (∃ i sl, doneEnabled (v15 (false, false, true, false, false) 9 0 1) = true ∧
      misoExchange 1 (v15 (false, false, true, false, false) 9 0 1) = .next (i, sl)) ∧
    (∃ i sl, doneEnabled (v15 (true, true, true, true, false) 0 0 1) = true ∧
      misoExchange 1 (v15 (true, true, true, true, false) 0 0 1) = .next (i, sl)) ∧
    (∃ e, doneEnabled rawByte = true ∧ misoExchange rawByte.shout rawByte = .refused e) :=
  ⟨⟨_, _, rfl, rfl⟩, ⟨_, _, rfl, rfl⟩, ⟨_, _, rfl, rfl⟩, ⟨_, rfl, rfl⟩⟩

theorem witness_EngineIsOffUntilConfigured :
    unconfigured.cr = 0x0000 ∧ ready.cr = 0x034F ∧ seOn unconfigured = false ∧ seOn ready = true := by decide

/-- SE-LOAD and SE-DONE. -/
theorem witness_SeenFlagsAreStable :
    (∃ t, engineEnabled (v15 (false, true, false, true, false) 9 0 1) = true ∧
      engineStep (v15 (false, true, false, true, false) 9 0 1) = .next t) ∧
    (∃ t, engineEnabled (v15 (true, false, true, false, false) 9 0 1) = true ∧
      engineStep (v15 (true, false, true, false, false) 9 0 1) = .next t) :=
  ⟨⟨_, rfl, rfl⟩, ⟨_, rfl, rfl⟩⟩

/-- No slave; a slave; each of its modes, at both ends of the pointer's range; both values of the MB bit. -/
theorem witness_MisoByteAndTheReferenceSlave :
    ready.slave = none ∧
    (∃ sl i sl', wired.slave = some sl ∧ Slave.exchange 0x40 (Config.misoByte wired.draws) sl = .next (i, sl')) ∧
    (∀ m : SlaveMode, ∃ sl sl' : Slave, sl.mode = m ∧ sl.ptr = 63 ∧ sl'.mode = m ∧ sl'.ptr = 0) ∧
    (0x3F : Byte).getLsbD 6 = false ∧ (0x40 : Byte).getLsbD 6 = true :=
  ⟨rfl, ⟨_, _, _, rfl, rfl⟩, fun m => ⟨⟨[], 63, m, true⟩, ⟨[], 0, m, true⟩, rfl, rfl, rfl, rfl⟩, by decide, by decide⟩

/-- A store at register 63, and an exchange that stores nothing. -/
theorem witness_SlaveStoresOneRegister :
    (∃ i sl', Memory.wf (⟨[(3, 4)], 63, .wr, true⟩ : Slave).regs = true ∧
      Slave.exchange 0xFF 0 ⟨[(3, 4)], 63, .wr, true⟩ = .next (i, sl') ∧
      (⟨[(3, 4)], 63, .wr, true⟩ : Slave).mode = .wr) ∧
    (∃ i sl', Memory.wf (⟨[(63, 4)], 63, .rd, true⟩ : Slave).regs = true ∧
      Slave.exchange 0xFF 0 ⟨[(63, 4)], 63, .rd, true⟩ = .next (i, sl') ∧
      (⟨[(63, 4)], 63, .rd, true⟩ : Slave).mode ≠ .wr) :=
  ⟨⟨_, _, by decide, rfl, rfl⟩, ⟨_, _, by decide, rfl, by decide⟩⟩

/-- A reset in the middle of an operation, with a device on the bus and a second pulse to come. -/
theorem witness_ResetAbandonsEverything :
    ∃ (s : State) (sl : Slave), s.rstAfter = 0 :: [5] ∧ s.todo ≠ [] ∧ s.slave = some sl :=
  ⟨{ polling with rstAfter := [0, 5], slave := wired.slave }, _, rfl, by decide, rfl⟩

/-- Pins not configured, pins configured, and the bus configured too. -/
theorem witness_ResetValuesOfTheTable :
    ready.pinsCfg = false ∧ wired.pinsCfg = true ∧ wired.cr = 0x034F ∧ wired.bsy = false := by decide

/-- A step in the middle of an operation, and one that ends in IDLE. -/
theorem witness_StepKeepsTheInvariant :
    (∃ t, Inv polling ∧ step polling = .next t) ∧ (∃ t, Inv ready ∧ step ready = .next t ∧ t.todo = []) :=
  ⟨⟨_, polling_inv, rfl⟩, ⟨_, ready_inv, rfl, rfl⟩⟩

/-- With a byte written and still in TXBUF. -/
theorem witness_StepKeepsTheWireOrder :
    ∃ s t : State, WireOrder s ∧ step s = .next t ∧ writtenBytes s.hist = [0xF2] :=
  ⟨{ unconfigured with txe := false, txbuf := 0xF2, hist := [.wdr 0xF2] }, _, by simp only [WireOrder]; decide, rfl,
    by decide⟩

theorem witness_StepKeepsTheProgramOrder :
    ∃ t, ProgramOrder polling ∧ step polling = .next t ∧ polling.op = some (.transmit []) := by
  refine ⟨_, ?_, rfl, rfl⟩
  intro i h
  cases h
  decide

theorem witness_StepKeepsTheBusOrder :
    ∃ t, Inv polling ∧ BusOrder polling ∧ step polling = .next t ∧ polling.op = some (.transmit []) := by
  refine ⟨_, polling_inv, ?_, rfl, rfl⟩
  intro i h
  cases h
  decide

/-- A reserved selector on the port in IDLE, and a byte the slave refuses inside an operation. -/
theorem witness_OnlyTheOutsideIsRefused :
    (∃ e, Inv (offering (.cw 0x0000000) []) ∧ step (offering (.cw 0x0000000) []) = .refused e ∧
      (offering (.cw 0x0000000) []).todo = []) ∧
    (∃ e, Inv (due rawByte) ∧ step (due rawByte) = .refused e ∧ (due rawByte).todo ≠ []) :=
  ⟨⟨_, ⟨by decide, by decide, by decide, by decide, ⟨.clean, by decide, by decide⟩, by decide⟩, rfl, rfl⟩,
    ⟨_, ⟨⟨rfl, rfl⟩, nofun, rfl, rfl, ⟨.oneWord, rfl, rfl⟩, rfl⟩, (step_due rfl rfl).trans rfl, nofun⟩⟩

/-- For each clause on the engine a step that makes the change. -/
theorem witness_OnlyTheirWritersChangeThem_engine :
    (∃ s t : State, resetDue s = false ∧ step s = .next t ∧ t.rxbuf ≠ s.rxbuf) ∧
    (∃ s t : State, resetDue s = false ∧ step s = .next t ∧ t.shout ≠ s.shout ∧ t.bsy ≠ s.bsy ∧
      s.txe = false ∧ t.txe = true) ∧
    (∃ s t : State, resetDue s = false ∧ step s = .next t ∧ s.rxne = false ∧ t.rxne = true) ∧
    (∃ s t : State, resetDue s = false ∧ step s = .next t ∧ s.ovr = false ∧ t.ovr = true) ∧
    (∃ s t : State, resetDue s = false ∧ step s = .next t ∧ t.slave ≠ s.slave) :=
  ⟨⟨due answered, _, rfl, (step_due rfl rfl).trans rfl, by decide⟩,
    ⟨due loading, _, rfl, (step_due rfl rfl).trans rfl, by decide, by decide, rfl, rfl⟩,
    ⟨due answered, _, rfl, (step_due rfl rfl).trans rfl, rfl, rfl⟩,
    ⟨due { answered with rxne := true }, _, rfl, (step_due rfl rfl).trans rfl, rfl, rfl⟩,
    ⟨due answered, _, rfl, (step_due rfl rfl).trans rfl, by decide⟩⟩

/-- For each clause on the sequencer a step that makes the change. -/
theorem witness_OnlyTheirWritersChangeThem :
    (∃ s t : State, resetDue s = false ∧ step s = .next t ∧ t.txbuf ≠ s.txbuf ∧ s.txe = true ∧ t.txe = false) ∧
    (∃ s t : State, resetDue s = false ∧ step s = .next t ∧ s.rxne = true ∧ t.rxne = false ∧
      s.ovrArm = false ∧ t.ovrArm = true) ∧
    (∃ s t : State, resetDue s = false ∧ step s = .next t ∧ s.ovr = true ∧ t.ovr = false ∧ s.ovrArm = true ∧
      t.ovrArm = false) ∧
    (∃ s t : State, resetDue s = false ∧ step s = .next t ∧ t.cr ≠ s.cr ∧ t.cfgDone ≠ s.cfgDone) ∧
    (∃ s t : State, resetDue s = false ∧ step s = .next t ∧ t.csN ≠ s.csN) ∧
    (∃ s t : State, resetDue s = false ∧ step s = .next t ∧ t.busClkEn ≠ s.busClkEn) ∧
    (∃ s t : State, resetDue s = false ∧ step s = .next t ∧ t.pinsCfg ≠ s.pinsCfg) ∧
    (∃ s t : State, resetDue s = false ∧ step s = .next t ∧ t.devPower ≠ s.devPower) ∧
    (∃ s t : State, resetDue s = false ∧ step s = .next t ∧ t.rxout ≠ s.rxout) ∧
    (∃ s t : State, resetDue s = false ∧ step s = .next t ∧ t.op ≠ s.op ∧ t.hostPort ≠ s.hostPort) ∧
    (∃ s t : State, resetDue s = false ∧ step s = .next t ∧ t.encOut ≠ s.encOut) :=
  ⟨⟨{ unconfigured with todo := [.wrDRb 9] }, _, rfl, rfl, by decide, rfl, rfl⟩,
    ⟨{ unconfigured with rxne := true, ovr := true, todo := [.rdDRdrop] }, _, rfl, rfl, rfl, rfl, rfl, rfl⟩,
    ⟨{ unconfigured with ovr := true, ovrArm := true, todo := [.rdSRdrop] }, _, rfl, rfl, rfl, rfl, rfl, rfl⟩,
    ⟨{ unconfigured with todo := [.wrCRcfg] }, _, rfl, rfl, by decide, by decide⟩,
    ⟨{ unconfigured with todo := [.cs false] }, _, rfl, rfl, by decide⟩,
    ⟨{ unconfigured with todo := [.extBusEn] }, _, rfl, rfl, by decide⟩,
    ⟨{ unconfigured with todo := [.extPins] }, _, rfl, rfl, by decide⟩,
    ⟨{ unconfigured with todo := [.setPower .standby] }, _, rfl, rfl, by decide⟩,
    ⟨{ unconfigured with todo := [.rdDRkeep] }, _, rfl, rfl, by decide⟩,
    ⟨offering (.cw 0x2000000) [], _, rfl, rfl, by decide, by decide⟩,
    ⟨offering (.cmdByte 0xC1) [], _, rfl, rfl, by decide⟩⟩

/-- A step inside an operation, and the step that ends one. -/
theorem witness_OperandsStayLatchedUntilDone :
    (∃ t, resetDue polling = false ∧ step polling = .next t ∧ polling.op = some (.transmit []) ∧
      polling.todo ≠ []) ∧
    (∃ s t : State, resetDue s = false ∧ step s = .next t ∧ s.op = some .selectDevice ∧ s.todo ≠ []) :=
  ⟨⟨_, rfl, rfl, rfl, by decide⟩,
    ⟨{ ready with op := some .selectDevice, todo := [.cs false] }, _, rfl, rfl, rfl, by decide⟩⟩

/-- A TRANSMIT on a configured bus, and INITIALIZE before the configuration. -/
theorem witness_EveryOperationEnds :
    (Ready ready ∧ ready.slave = none ∧ encoderResult (.transmit [1, 2]) = none ∧
      (configures (.transmit [1, 2]) = true → ready.cfgDone = false) ∧
      powered (seOn ready) (expansion (.transmit [1, 2])) = true) ∧
    (Ready unconfigured ∧ unconfigured.slave = none ∧ encoderResult .initDevice = none ∧
      (configures .initDevice = true → unconfigured.cfgDone = false) ∧
      powered (seOn unconfigured) (expansion .initDevice) = true) :=
  ⟨⟨ready_ready, rfl, rfl, by decide, by decide⟩, ⟨unconfigured_ready, rfl, rfl, fun _ => rfl, rfl⟩⟩

theorem witness_TransferBeforeConfigurationHangs :
    Ready unconfigured ∧ seOn unconfigured = false ∧ encoderResult (.receive 1) = none ∧
    configures (.receive 1) = false ∧ powered false (expansion (.receive 1)) = false :=
  ⟨unconfigured_ready, by decide, rfl, rfl, by decide⟩

theorem witness_ConfigureBusRuns :
    unconfigured.todo = [] ∧ cleanFlags unconfigured = true ∧ unconfigured.rstAfter = [] ∧
    unconfigured.cfgDone = false := by decide

theorem witness_SelectAndDeselectRun :
    ready.todo = [] ∧ cleanFlags ready = true ∧ ready.rstAfter = [] := by decide

theorem witness_TransmitRuns : Ready ready ∧ ready.slave = none ∧ seOn ready = true :=
  ⟨ready_ready, rfl, rfl⟩

theorem witness_ReceiveRuns : Ready ready ∧ ready.slave = none ∧ seOn ready = true :=
  ⟨ready_ready, rfl, rfl⟩

/-- The operation and the frame. -/
theorem witness_ReadRegistersRuns :
    Ready ready ∧ ready.slave = none ∧ seOn ready = true ∧
    (Instr.readRegisters 63 0 = .readRegisters 63 0 ∨ Instr.readRegisters 63 0 = .readFrame 63 0) ∧
    (Instr.readFrame 63 255 = .readRegisters 63 255 ∨ Instr.readFrame 63 255 = .readFrame 63 255) :=
  ⟨ready_ready, rfl, rfl, .inl rfl, .inr rfl⟩

/-- The operation and the frame. -/
theorem witness_WriteRegisterRuns :
    Ready ready ∧ ready.slave = none ∧ seOn ready = true ∧
    (Instr.writeRegister 63 0 = .writeRegister 63 0 ∨ Instr.writeRegister 63 0 = .writeFrame 63 0) ∧
    (Instr.writeFrame 63 255 = .writeRegister 63 255 ∨ Instr.writeFrame 63 255 = .writeFrame 63 255) :=
  ⟨ready_ready, rfl, rfl, .inl rfl, .inr rfl⟩

theorem witness_InitializeRuns : Ready unconfigured ∧ unconfigured.slave = none ∧ unconfigured.cfgDone = false :=
  ⟨unconfigured_ready, rfl, rfl⟩

theorem witness_WriteRegisterReachesTheSlave :
    ∃ sl, Ready wired ∧ seOn wired = true ∧ wired.pinsCfg = true ∧ wired.slave = some sl ∧ addrFits 63 = true :=
  ⟨_, wired_ready, rfl, rfl, rfl, by decide⟩

/-- The last register alone, and all 64. -/
theorem witness_ReadRegistersReturnsTheSlavesBytes :
    ∃ sl, Ready wired ∧ seOn wired = true ∧ wired.pinsCfg = true ∧ wired.slave = some sl ∧
      (addrFits 63 = true ∧ (63 : Byte).toNat + (1 : Byte).toNat ≤ 64) ∧
      (addrFits 0 = true ∧ (0 : Byte).toNat + (64 : Byte).toNat ≤ 64) :=
  ⟨_, wired_ready, rfl, rfl, rfl, by decide, by decide⟩

theorem witness_WriteThenReadReturnsTheValue :
    ∃ sl, Ready wired ∧ seOn wired = true ∧ wired.pinsCfg = true ∧ wired.slave = some sl ∧
      addrFits 0 = true ∧ addrFits 63 = true :=
  ⟨_, wired_ready, rfl, rfl, rfl, by decide, by decide⟩

end Sys2Proof.Tests
end

section
/-! PROOFS. The engine's enable condition SE_on in terms of the bus clock and CR (10_state.md R26, R28), and the engine
without it (40_shift_engine.md R90). -/

namespace Sys2Proof.Machine

/-! ## SE_on -/

/-- The two enable bits tell the two values of CR apart, which is what R28 takes from R26. -/
theorem crSPE_and_crMSTR_iff_crCfg {c : CrWord} (hc : c = 0x0000 ∨ c = 0x034F) :
    crSPE c = true ∧ crMSTR c = true ↔ c = 0x034F := by
  obtain rfl | rfl := hc
  · decide
  · decide

theorem seOn_iff {s : State} : seOn s = true ↔ s.busClkEn = true ∧ crSPE s.cr = true ∧ crMSTR s.cr = true := by
  simp [seOn, and_assoc]

theorem seOn_iff_crCfg {s : State} (hc : s.cr = 0x0000 ∨ s.cr = 0x034F) :
    seOn s = true ↔ s.busClkEn = true ∧ s.cr = 0x034F := by
  rw [seOn_iff, crSPE_and_crMSTR_iff_crCfg hc]

/-! ## The engine while SE_on does not hold -/

theorem loadEnabled_of_seOn_false {s : State} (h : seOn s = false) : loadEnabled s = false := by
  simp [loadEnabled, h]

theorem doneEnabled_of_seOn_false {s : State} (h : seOn s = false) : doneEnabled s = false := by
  simp [doneEnabled, h]

theorem engineEnabled_of_seOn_false {s : State} (h : seOn s = false) : engineEnabled s = false := by
  simp [engineEnabled, loadEnabled_of_seOn_false h, doneEnabled_of_seOn_false h]

theorem engineDue_of_engineEnabled_false {s : State} (h : engineEnabled s = false) : engineDue s = false := by
  simp [engineDue, h]

/-- Settles O32: SE_on by its definition, by the enable bits of the two values of CR, and as a conjunct of the enabling
condition of both engine steps. -/
theorem engineIsOffUntilConfigured : Obligations.EngineIsOffUntilConfigured := by
  intro s
  refine ⟨seOn_iff, seOn_iff_crCfg, fun hoff => ?_⟩
  have hnone : engineEnabled s = false := engineEnabled_of_seOn_false hoff
  exact ⟨hnone, engineDue_of_engineEnabled_false hnone⟩

end Sys2Proof.Machine
end

section
/-! PROOFS. The writes of the data register and the reads of the status register (20_memory.md R45, R46): what each
access does to the flags, and why the order of the two reads of the drain matters (R57). -/

namespace Sys2Proof.Machine

/-! ## `WrDR` -/

theorem wrDR_eq_refused_of_txe_false {v : Byte} {s : State} (h : s.txe = false) :
    wrDR v s = .refused .drWriteWhileFull := by
  simp [wrDR, h]

theorem loadEnabled_iff {s : State} :
    loadEnabled s = true ↔ seOn s = true ∧ s.txe = false ∧ s.bsy = false := by
  simp [loadEnabled, and_assoc]

/-- SE_on reads the bus clock and CR only, so an access that leaves both as they are leaves it as it is (R28). -/
theorem seOn_congr {s t : State} (hclk : t.busClkEn = s.busClkEn) (hcr : t.cr = s.cr) : seOn t = seOn s := by
  simp only [seOn, hclk, hcr]

/-- The write starts a word transfer: an engine that is on and quiet can take the byte (R45, R91). -/
theorem loadEnabled_of_wrDR {v : Byte} {s t : State} (h : wrDR v s = .next t) (hon : seOn s = true)
    (hquiet : s.bsy = false) : loadEnabled t = true := by
  obtain ⟨-, rfl⟩ := wrDR_eq_next.1 h
  exact loadEnabled_iff.2 ⟨(seOn_congr rfl rfl).trans hon, rfl, hquiet⟩

/-- Settles O22: the write with TXE = 1 and the refusal with TXE = 0 are the two branches of `wrDR`, and the engine
step a write enables follows from the state it leaves. -/
theorem writeOfDR : Obligations.WriteOfDR := by
  intro v s
  exact ⟨fun htxe => wrDR_eq_next.2 ⟨htxe, rfl⟩, fun _ => loadEnabled_of_wrDR, wrDR_eq_refused_of_txe_false⟩

/-! ## `RdSR` -/

/-- The image is taken of the state as it was, so it does not know of the clearing (R46, D12). -/
@[simp] theorem rdSR_image (use : SrUse) (s : State) : (rdSR use s).1 = srImage s := rfl

/-- OVR is bit 6 of the image (10_state.md R15). -/
@[simp] theorem srImage_getElem_ovr (s : State) : (srImage s)[6] = s.ovr := by
  rw [← BitVec.getLsbD_eq_getElem]
  simp only [srImage, BitVec.getLsbD_append]
  simp

theorem rdSR_of_ovrArm {s : State} (use : SrUse) (h : s.ovrArm = true) :
    (rdSR use s).2 = { s with ovr := false, ovrArm := false, hist := s.hist ++ [.rsr (srImage s) use] } := by
  simp [rdSR, State.emit, h]

theorem rdSR_of_ovrArm_false {s : State} (use : SrUse) (h : s.ovrArm = false) :
    (rdSR use s).2 = { s with hist := s.hist ++ [.rsr (srImage s) use] } := by
  simp [rdSR, State.emit, h]

/-- The drain in its order, DR then SR: the first read arms the clearing and the second completes it, its image still
showing the overrun (R57, R164). -/
theorem rdSR_after_rdDR_clears_ovr {s : State} (use : SrUse) (h : s.ovr = true) :
    (rdSR use (rdDR s).2).2.ovr = false ∧ (rdSR use (rdDR s).2).2.ovrArm = false ∧
      (rdSR use (rdDR s).2).2.rxne = false ∧ ((rdSR use (rdDR s).2).1).getLsbD 6 = true := by
  have harmed : (rdDR s).2.ovrArm = true := by simp [h]
  simp [rdSR_of_ovrArm use harmed, h]

/-- The two reads swapped: the read of SR finds nothing armed and clears nothing, and the read of DR then only arms
(R46, R57). -/
theorem rdDR_after_rdSR_keeps_ovr {s : State} (use : SrUse) (h : s.ovr = true) (harm : s.ovrArm = false) :
    (rdDR (rdSR use s).2).2.ovr = true ∧ (rdDR (rdSR use s).2).2.ovrArm = true := by
  simp [rdSR_of_ovrArm_false use harm, h]

/-- Settles O23: the image by its definition, the clearing by cases on `ovrArm`, and the two orders of the drain. -/
theorem readOfSR : Obligations.ReadOfSR := by
  intro use s
  exact ⟨rfl, rdSR_of_ovrArm use, rdSR_of_ovrArm_false use, rdSR_after_rdDR_clears_ovr use,
    rdDR_after_rdSR_keeps_ovr use⟩

end Sys2Proof.Machine
end

section
/-! PROOFS. The command byte on the wire made of its three fields, and the two encoders as the bytes with those fields
(30_encoding.md R70 to R72, R74). -/

namespace Sys2Proof

/-! ## The command byte made of its fields -/

/-- The byte with the fields `{RW, MB = 1, ADDR}` (R70). -/
def cmdMake (rw : Bool) (addr : BitVec 6) : Byte := BitVec.ofBool rw ++ 1#1 ++ addr

@[simp] theorem cmdRW_cmdMake (rw : Bool) (addr : BitVec 6) : cmdRW (cmdMake rw addr) = rw := by
  simp only [cmdRW, cmdMake, BitVec.getLsbD_append]
  simp

@[simp] theorem cmdMB_cmdMake (rw : Bool) (addr : BitVec 6) : cmdMB (cmdMake rw addr) = true := by
  simp only [cmdMB, cmdMake, BitVec.getLsbD_append]
  simp

@[simp] theorem cmdAddr_cmdMake (rw : Bool) (addr : BitVec 6) : cmdAddr (cmdMake rw addr) = addr :=
  BitVec.extractLsb'_append_eq_right

theorem toNat_cmdMake (rw : Bool) (addr : BitVec 6) :
    (cmdMake rw addr).toNat = 128 * rw.toNat + 64 + addr.toNat := by
  revert rw addr; decide

/-! ## The address operand within its contract -/

theorem addrFits_iff {a : Byte} : addrFits a = true ↔ a.toNat < 64 := by
  simp [addrFits]

theorem toNat_cmdAddr_of_addrFits {a : Byte} (h : addrFits a = true) : (cmdAddr a).toNat = a.toNat := by
  simpa [cmdAddr] using addrFits_iff.1 h

/-- ADDR is then the whole operand. -/
theorem cmdAddrOperand_of_addrFits {a : Byte} (h : addrFits a = true) : cmdAddrOperand a = a := by
  apply BitVec.eq_of_toNat_eq
  rw [cmdAddrOperand, BitVec.toNat_setWidth_of_le (by decide), toNat_cmdAddr_of_addrFits h]

theorem getLsbD_seven_of_addrFits {a : Byte} (h : addrFits a = true) : a.getLsbD 7 = false := by
  rw [← cmdAddrOperand_of_addrFits h]
  simp [cmdAddrOperand]

/-! ## The encoders -/

/-- A read's byte, for any operand: the OR sets both bits above ADDR (R71, R74). -/
theorem encReadByte_eq_cmdMake (a : Byte) : encReadByte a = cmdMake true (cmdAddr a) := by
  revert a; decide

/-- A write's byte, for any operand: the OR sets MB alone, so bit 7 of the operand stands where RW does (R72, R74). -/
theorem encWriteByte_eq_cmdMake (a : Byte) : encWriteByte a = cmdMake (a.getLsbD 7) (cmdAddr a) := by
  revert a; decide

@[simp] theorem cmdRW_encReadByte (a : Byte) : cmdRW (encReadByte a) = true := by
  rw [encReadByte_eq_cmdMake, cmdRW_cmdMake]

@[simp] theorem cmdMB_encReadByte (a : Byte) : cmdMB (encReadByte a) = true := by
  rw [encReadByte_eq_cmdMake, cmdMB_cmdMake]

@[simp] theorem cmdAddr_encReadByte (a : Byte) : cmdAddr (encReadByte a) = cmdAddr a := by
  rw [encReadByte_eq_cmdMake, cmdAddr_cmdMake]

@[simp] theorem cmdRW_encWriteByte (a : Byte) : cmdRW (encWriteByte a) = a.getLsbD 7 := by
  rw [encWriteByte_eq_cmdMake, cmdRW_cmdMake]

@[simp] theorem cmdMB_encWriteByte (a : Byte) : cmdMB (encWriteByte a) = true := by
  rw [encWriteByte_eq_cmdMake, cmdMB_cmdMake]

@[simp] theorem cmdAddr_encWriteByte (a : Byte) : cmdAddr (encWriteByte a) = cmdAddr a := by
  rw [encWriteByte_eq_cmdMake, cmdAddr_cmdMake]

/-! ## The encoders within the contract of the operand -/

theorem cmdRW_encWriteByte_of_addrFits {a : Byte} (h : addrFits a = true) : cmdRW (encWriteByte a) = false := by
  rw [cmdRW_encWriteByte, getLsbD_seven_of_addrFits h]

theorem cmdAddrOperand_encReadByte {a : Byte} (h : addrFits a = true) : cmdAddrOperand (encReadByte a) = a := by
  rw [cmdAddrOperand, cmdAddr_encReadByte]
  exact cmdAddrOperand_of_addrFits h

theorem cmdAddrOperand_encWriteByte {a : Byte} (h : addrFits a = true) : cmdAddrOperand (encWriteByte a) = a := by
  rw [cmdAddrOperand, cmdAddr_encWriteByte]
  exact cmdAddrOperand_of_addrFits h

/-- No bit is set twice, so the OR adds. -/
theorem toNat_encReadByte {a : Byte} (h : addrFits a = true) : (encReadByte a).toNat = a.toNat + 192 := by
  rw [encReadByte_eq_cmdMake, toNat_cmdMake, toNat_cmdAddr_of_addrFits h, Bool.toNat_true]
  omega

theorem toNat_encWriteByte {a : Byte} (h : addrFits a = true) : (encWriteByte a).toNat = a.toNat + 64 := by
  rw [encWriteByte_eq_cmdMake, toNat_cmdMake, toNat_cmdAddr_of_addrFits h, getLsbD_seven_of_addrFits h,
    Bool.toNat_false]
  omega

theorem encReadByte_injOn {a b : Byte} (ha : addrFits a = true) (hb : addrFits b = true)
    (h : encReadByte a = encReadByte b) : a = b := by
  rw [← cmdAddrOperand_encReadByte ha, h, cmdAddrOperand_encReadByte hb]

theorem encWriteByte_injOn {a b : Byte} (ha : addrFits a = true) (hb : addrFits b = true)
    (h : encWriteByte a = encWriteByte b) : a = b := by
  rw [← cmdAddrOperand_encWriteByte ha, h, cmdAddrOperand_encWriteByte hb]

/-- The direction bit tells a read's byte from a write's (R84). -/
theorem encReadByte_ne_encWriteByte (a : Byte) {b : Byte} (hb : addrFits b = true) :
    encReadByte a ≠ encWriteByte b := by
  intro h
  have hrw : true = false := calc
    true = cmdRW (encReadByte a) := (cmdRW_encReadByte a).symm
    _ = cmdRW (encWriteByte b) := by rw [h]
    _ = false := cmdRW_encWriteByte_of_addrFits hb
  cases hrw

/-- Settles O2: the fields are read off the bytes made of them, the address read back gives injectivity, and the
direction bit keeps the two encoders apart. -/
theorem encodersGiveTheCommandByte : Obligations.EncodersGiveTheCommandByte := by
  refine ⟨fun a => ⟨rfl, BitVec.or_assoc a 0x80 0x40, rfl⟩, fun a ha => ?_, fun a b ha hb => ?_, by decide⟩
  · exact ⟨cmdRW_encReadByte a, cmdMB_encReadByte a, cmdAddrOperand_encReadByte ha,
      cmdRW_encWriteByte_of_addrFits ha, cmdMB_encWriteByte a, cmdAddrOperand_encWriteByte ha,
      toNat_encReadByte ha, toNat_encWriteByte ha⟩
  · exact ⟨encReadByte_injOn ha hb, encWriteByte_injOn ha hb, encReadByte_ne_encWriteByte a hb⟩

end Sys2Proof
end

section
/-! PROOFS. The host command word: what each selector decodes to whatever the unused fields hold, and what IDLE does with
the decoder's answer (30_encoding.md R78 to R83, 41_transport.md R103). -/

namespace Sys2Proof

/-! ## The fields of a command word -/

@[simp] theorem cwOp_cwMake (op : BitVec 4) (a v n : Byte) : cwOp (cwMake op a v n) = op :=
  (Laws.cwFields op a v n).1

@[simp] theorem cwA_cwMake (op : BitVec 4) (a v n : Byte) : cwA (cwMake op a v n) = a :=
  (Laws.cwFields op a v n).2.1

@[simp] theorem cwV_cwMake (op : BitVec 4) (a v n : Byte) : cwV (cwMake op a v n) = v :=
  (Laws.cwFields op a v n).2.2.1

@[simp] theorem cwN_cwMake (op : BitVec 4) (a v n : Byte) : cwN (cwMake op a v n) = n :=
  (Laws.cwFields op a v n).2.2.2

/-! ## The decoder on each selector -/

section
variable (a v n : Byte) (stream : List Byte)

theorem decodeCW_configureBus : decodeCW (cwMake 1 a v n) stream = .ok .configureBus stream := by
  simp [decodeCW]

theorem decodeCW_selectDevice : decodeCW (cwMake 2 a v n) stream = .ok .selectDevice stream := by
  simp [decodeCW]

theorem decodeCW_deselectDevice : decodeCW (cwMake 3 a v n) stream = .ok .deselectDevice stream := by
  simp [decodeCW]

theorem decodeCW_transmit : decodeCW (cwMake 4 a v n) stream = decodeTransmit n.toNat stream := by
  simp [decodeCW]

theorem decodeCW_receive : decodeCW (cwMake 5 a v n) stream = .ok (.receive n) stream := by
  simp [decodeCW]

theorem decodeCW_readRegisters : decodeCW (cwMake 6 a v n) stream = .ok (.readRegisters a n) stream := by
  simp [decodeCW]

theorem decodeCW_writeRegister : decodeCW (cwMake 7 a v n) stream = .ok (.writeRegister a v) stream := by
  simp [decodeCW]

theorem decodeCW_initDevice : decodeCW (cwMake 8 a v n) stream = .ok .initDevice stream := by
  simp [decodeCW]

/-- The selectors 0x0 and 0x9 to 0xF are reserved (R80). -/
theorem decodeCW_of_reserved {op : BitVec 4} (h : op = 0 ∨ 9 ≤ op.toNat) :
    decodeCW (cwMake op a v n) stream = .reject (.reservedSelector op) := by
  have hop : op.toNat = 0 ∨ 9 ≤ op.toNat := h.imp_left (congrArg BitVec.toNat)
  rw [decodeCW, cwOp_cwMake]
  split
  case h_9 => rfl
  all_goals omega

end

theorem decodeTransmit_of_le {l : Nat} {stream : List Byte} (h : l ≤ stream.length) :
    decodeTransmit l stream = .ok (.transmit (stream.take l)) (stream.drop l) :=
  if_neg (Nat.not_lt.2 h)

end Sys2Proof

namespace Sys2Proof.Machine

/-! ## IDLE with an item presented -/

theorem idleStep_of_ok {s : State} {it : Item} {items : List Item} {i : Instr} {rest : List Byte}
    (hport : s.hostPort = it :: items) (hdec : decode it s.txStream = .ok i rest) :
    idleStep s = exec i { s with hostPort := items, txStream := rest } := by
  simp [idleStep, fetch, hport, hdec]

theorem idleStep_of_reject {s : State} {it : Item} {items : List Item} {r : Reject}
    (hport : s.hostPort = it :: items) (hdec : decode it s.txStream = .reject r) :
    idleStep s = .refused (refusalOf r) := by
  simp [idleStep, fetch, hport, hdec]

/-- Settles O4: the reserved selectors fall through the decoder, and every other selector has its equation, in which the
unused fields are free. -/
theorem selectorsAndIgnoredFields : Obligations.SelectorsAndIgnoredFields := by
  refine ⟨fun op a v n stream hop => decodeCW_of_reserved a v n stream hop, ?_, fun a v n stream => ?_⟩
  · intro op a v n items s hop hport
    exact idleStep_of_reject hport (decodeCW_of_reserved a v n s.txStream hop)
  · have htransmit : decodeCW (cwMake 4 a v n) stream = decodeCW (cwMake 4 0 0 n) stream := by
      rw [decodeCW_transmit, decodeCW_transmit]
    exact ⟨decodeCW_configureBus a v n stream, decodeCW_selectDevice a v n stream,
      decodeCW_deselectDevice a v n stream, htransmit, decodeCW_receive a v n stream,
      decodeCW_readRegisters a v n stream, decodeCW_writeRegister a v n stream, decodeCW_initDevice a v n stream⟩

/-! ## The acceptance of a TRANSMIT -/

/-- Every TRANSMIT has its end to do, so none ends in the step that accepts it (R107). -/
theorem xTransmit_ne_nil (bs : List Byte) : xTransmit bs ≠ [] := by
  simp [xTransmit, xTransmitEnd]

theorem exec_transmit_of_idle (bs : List Byte) {s : State} (h : s.todo = []) :
    exec (.transmit bs) s = .next (latch (.transmit bs) (xTransmit bs) s) := by
  have hbusy : (latch (.transmit bs) (xTransmit bs) s).todo ≠ [] := xTransmit_ne_nil bs
  calc exec (.transmit bs) s
      = .next (finish (latch (.transmit bs) (xTransmit bs) s)) := accept_of_idle _ _ h
    _ = .next (latch (.transmit bs) (xTransmit bs) s) := by rw [finish_of_busy hbusy]

/-- Settles O5: the decoder splits the stream after `L` bytes, and the acceptance latches the first part. -/
theorem transmitTakesItsBytesFromTheStream : Obligations.TransmitTakesItsBytesFromTheStream := by
  intro a v n items s hidle hport hoffered
  have hdec : decode (.cw (cwMake 4 a v n)) s.txStream =
      .ok (.transmit (s.txStream.take n.toNat)) (s.txStream.drop n.toNat) :=
    (decodeCW_transmit a v n s.txStream).trans (decodeTransmit_of_le hoffered)
  have hnone (hn : n = 0) : s.txStream.drop n.toNat = s.txStream := by simp [hn]
  exact ⟨_, (idleStep_of_ok hport hdec).trans (exec_transmit_of_idle _ hidle), rfl, rfl, hnone⟩

end Sys2Proof.Machine
end

section
/-! PROOFS. Decoding what the encoder wrote (30_encoding.md R70 to R83): the command word, the command byte, the two
frames, and from them the round trip of every instruction. -/

namespace Sys2Proof

/-! ## The command byte -/

/-- An encoder's byte is read back as the encoder's request, the address being the whole operand (R71). -/
theorem decodeCmdByte_encReadByte {a : Byte} (stream : List Byte) (h : addrFits a = true) :
    decodeCmdByte (encReadByte a) stream = .ok (.encRead a) stream := by
  simp [decodeCmdByte, cmdAddrOperand_encReadByte h]

theorem decodeCmdByte_encWriteByte {a : Byte} (stream : List Byte) (h : addrFits a = true) :
    decodeCmdByte (encWriteByte a) stream = .ok (.encWrite a) stream := by
  simp [decodeCmdByte, cmdRW_encWriteByte_of_addrFits h, cmdAddrOperand_encWriteByte h]

/-! ## The frames -/

theorem decodeFrame_write {a : Byte} (v : Byte) (stream : List Byte) (h : addrFits a = true) :
    decodeFrame [encWriteByte a, v] stream = .ok (.writeFrame a v) stream := by
  simp [decodeFrame, cmdRW_encWriteByte_of_addrFits h, cmdAddrOperand_encWriteByte h]

/-- Every count of the operand is a number of zero words the decoder takes (R76). -/
theorem isDummies_replicate (n : Byte) : isDummies (List.replicate n.toNat 0#8) = true := by
  have hn := n.isLt
  simp [isDummies, hn]

theorem decodeFrame_read {a : Byte} (n : Byte) (stream : List Byte) (h : addrFits a = true) :
    decodeFrame (encReadByte a :: List.replicate n.toNat 0) stream = .ok (.readFrame a n) stream := by
  simp [decodeFrame, isDummies_replicate, cmdAddrOperand_encReadByte h]

/-! ## TRANSMIT and its bytes on the stream -/

/-- The N field holds the length of a list that fits it (R107, D3). -/
theorem toNat_ofNat_length {bs : List Byte} (h : lengthFits bs = true) :
    (BitVec.ofNat 8 bs.length).toNat = bs.length := by
  have hlen : bs.length < 256 := by simpa [lengthFits] using h
  simpa using hlen

theorem decodeTransmit_append (bs rest : List Byte) :
    decodeTransmit bs.length (bs ++ rest) = .ok (.transmit bs) rest := by
  rw [decodeTransmit_of_le (by simp), List.take_left, List.drop_left]

/-- Settles O1: one case for each row of the table, a command word by its selector's equation, a wire row by the fields
of its first byte. -/
theorem decodeOfEncodeIsTheInstruction : Obligations.DecodeOfEncodeIsTheInstruction := by
  intro i rest hwf
  cases i with
  | configureBus => exact decodeCW_configureBus 0 0 0 rest
  | selectDevice => exact decodeCW_selectDevice 0 0 0 rest
  | deselectDevice => exact decodeCW_deselectDevice 0 0 0 rest
  | transmit bs =>
    calc decodeCW (cwMake 4 0 0 (BitVec.ofNat 8 bs.length)) (bs ++ rest)
        = decodeTransmit bs.length (bs ++ rest) := by rw [decodeCW_transmit, toNat_ofNat_length hwf]
      _ = .ok (.transmit bs) rest := decodeTransmit_append bs rest
  | receive n => exact decodeCW_receive 0 0 n rest
  | readRegisters a n => exact decodeCW_readRegisters a 0 n rest
  | writeRegister a v => exact decodeCW_writeRegister a v 0 rest
  | initDevice => exact decodeCW_initDevice 0 0 0 rest
  | encRead a => exact decodeCmdByte_encReadByte rest hwf
  | encWrite a => exact decodeCmdByte_encWriteByte rest hwf
  | writeFrame a v => exact decodeFrame_write v rest hwf
  | readFrame a n => exact decodeFrame_read n rest hwf

/-- Settles O6: the eleven words are literals, so the decoder's answers are computed. -/
theorem wordsOfTheSpecDecode : Obligations.WordsOfTheSpecDecode := by
  unfold Obligations.WordsOfTheSpecDecode
  decide

end Sys2Proof
end

section
/-! PROOFS. Acceptance (41_transport.md R103 to R109): what executing an instruction answers, busy and in IDLE, said once
and then read off for each operation. -/

namespace Sys2Proof.Machine

/-! ## Executing, busy and in IDLE -/

theorem exec_of_busy (i : Instr) {s : State} (h : s.todo ≠ []) : exec i s = .next s := by
  rcases exec_cases i s with ⟨-, e⟩ | ⟨h', -⟩ | ⟨h', -⟩ | ⟨_, h', -⟩
  · exact e
  all_goals exact absurd h' h

/-- An operation asked for in IDLE is latched with its expansion to do (R103). -/
theorem exec_of_idle {i : Instr} {s : State} (h : s.todo = []) (henc : encoderResult i = none)
    (hcfg : configures i = true → s.cfgDone = false) :
    exec i s = .next (finish (latch i (expansion i) s)) := by
  rcases exec_cases i s with ⟨h', -⟩ | ⟨-, hc, hd, -⟩ | ⟨-, -, -, e⟩ | ⟨_, -, henc', -⟩
  · exact absurd h h'
  · exact absurd (hcfg hc) (by simp [hd])
  · exact e
  · exact absurd henc (by simp [henc'])

/-- An operation with something to do is in progress after its acceptance. -/
theorem exec_of_idle_of_ne_nil {i : Instr} {s : State} (h : s.todo = []) (henc : encoderResult i = none)
    (hcfg : configures i = true → s.cfgDone = false) (hne : expansion i ≠ []) :
    exec i s = .next { s with
      op := some i, rxout := [], todo := expansion i, hist := s.hist ++ [.accept i] } := by
  rw [exec_of_idle h henc hcfg, finish_of_busy (by simpa using hne)]
  rfl

theorem exec_encoder_of_idle {i : Instr} {s : State} {r : Byte} (h : s.todo = []) (henc : encoderResult i = some r) :
    exec i s = .next { s with encOut := r } := by
  rcases exec_cases i s with ⟨h', -⟩ | ⟨-, hc, -⟩ | ⟨-, henc', -⟩ | ⟨r', -, henc', e⟩
  · exact absurd h h'
  · cases i <;> simp [configures, encoderResult] at hc henc
  · exact absurd henc (by simp [henc'])
  · obtain rfl : r' = r := by simpa [henc'] using henc
    exact e

theorem exec_second_configuration {i : Instr} {s : State} (h : s.todo = []) (hc : configures i = true)
    (hd : s.cfgDone = true) : exec i s = .refused .secondConfiguration := by
  rcases exec_cases i s with ⟨h', -⟩ | ⟨-, -, -, e⟩ | ⟨-, -, hcfg, -⟩ | ⟨_, -, henc, -⟩
  · exact absurd h h'
  · exact e
  · exact absurd (hcfg hc) (by simp [hd])
  · cases i <;> simp [configures, encoderResult] at hc henc

/-! ## The expansions written out -/

theorem xTransmitLoop_eq_flatMap (bs : List Byte) :
    xTransmitLoop bs = bs.flatMap fun b => [.poll .txe true, .wrDRb b] := by
  induction bs with
  | nil => rfl
  | cons b bs ih => simp [xTransmitLoop, ih]

theorem xReceive_eq_flatten (n : Nat) :
    xReceive n = (List.replicate n [MicroOp.wrDRb 0x00, .poll .rxne true, .rdDRkeep]).flatten := by
  induction n with
  | zero => rfl
  | succ n ih => rw [xReceive, ih]; rfl

theorem length_xTransmit (bs : List Byte) : (xTransmit bs).length = 2 * bs.length + 4 := by
  have hloop : (xTransmitLoop bs).length = 2 * bs.length := by
    induction bs with
    | nil => rfl
    | cons b bs ih => simp [xTransmitLoop, ih]; omega
  simp [xTransmit, xTransmitEnd, hloop]

theorem length_xReceive (n : Nat) : (xReceive n).length = 3 * n := by
  induction n with
  | zero => rfl
  | succ n ih => simp [xReceive, ih]; omega

theorem xReadRegisters_eq (a : Byte) (n : Nat) :
    xReadRegisters a n =
      [.cs false, .poll .txe true, .wrDRb (a ||| 0xC0), .poll .txe true, .poll .bsy false, .rdDRdrop, .rdSRdrop]
        ++ (List.replicate n [MicroOp.wrDRb 0x00, .poll .rxne true, .rdDRkeep]).flatten ++ [.cs true] := by
  have hcmd : encReadByte a = a ||| 0xC0 := BitVec.or_assoc a 0x80 0x40
  rw [← xReceive_eq_flatten, ← hcmd]
  rfl

theorem length_xReadRegisters (a : Byte) (n : Nat) : (xReadRegisters a n).length = 8 + 3 * n := by
  simp [xReadRegisters, length_xTransmit, length_xReceive, xSelectDevice, xDeselectDevice]
  omega

/-! ## Each instruction -/

/-- Settles O9. -/
theorem busySequencerAcceptsNothing : Obligations.BusySequencerAcceptsNothing :=
  fun i _ h => exec_of_busy i h

/-- Settles O10. -/
theorem configureBusIsAccepted : Obligations.ConfigureBusIsAccepted :=
  fun _ h hd => exec_of_idle_of_ne_nil (i := .configureBus) h rfl (fun _ => hd) nofun

/-- Settles O11. -/
theorem selectAndDeselectAreAccepted : Obligations.SelectAndDeselectAreAccepted :=
  fun _ h => ⟨exec_of_idle_of_ne_nil (i := .selectDevice) h rfl nofun nofun,
    exec_of_idle_of_ne_nil (i := .deselectDevice) h rfl nofun nofun⟩

/-- Settles O12: the loop of the expansion is the list of the polls and writes, and its length is counted by
induction. -/
theorem transmitIsAccepted : Obligations.TransmitIsAccepted := by
  intro bs s h
  refine ⟨_, exec_transmit_of_idle bs h, ?_, length_xTransmit bs⟩
  rw [← xTransmitLoop_eq_flatMap]
  rfl

/-- Settles O13: RECEIVE of nothing has the empty expansion, so its acceptance completes it. -/
theorem receiveIsAccepted : Obligations.ReceiveIsAccepted := by
  intro n s h
  refine ⟨fun hn => ?_, fun hn => ?_⟩
  · have hpos : 0 < n.toNat := Nat.pos_of_ne_zero fun h0 => hn (BitVec.eq_of_toNat_eq h0)
    have hne : xReceive n.toNat ≠ [] := List.ne_nil_of_length_pos (by rw [length_xReceive]; omega)
    refine ⟨_, exec_of_idle_of_ne_nil (i := .receive n) h rfl nofun hne, ?_, length_xReceive n.toNat⟩
    rw [← xReceive_eq_flatten]
    rfl
  · subst hn
    rw [exec_of_idle (i := .receive 0) h rfl nofun, finish_of_op rfl rfl]
    simp [latch, State.emit, expansion, xReceive]

/-- Settles O14. -/
theorem readRegistersIsAccepted : Obligations.ReadRegistersIsAccepted := by
  intro a n s h
  refine ⟨_, exec_of_idle_of_ne_nil (i := .readRegisters a n) h rfl nofun nofun, ?_,
    length_xReadRegisters a n.toNat⟩
  rw [← xReadRegisters_eq]
  rfl

/-- Settles O15. -/
theorem writeRegisterIsAccepted : Obligations.WriteRegisterIsAccepted :=
  fun a v _ h => exec_of_idle_of_ne_nil (i := .writeRegister a v) h rfl nofun nofun

/-- Settles O16. -/
theorem initializeIsAccepted : Obligations.InitializeIsAccepted :=
  fun _ h hd => ⟨_, exec_of_idle_of_ne_nil (i := .initDevice) h rfl (fun _ => hd) nofun, rfl, rfl⟩

/-- Settles O17. -/
theorem encoderRequestsGiveTheirByte : Obligations.EncoderRequestsGiveTheirByte := by
  intro a s h
  have hcmd : encReadByte a = a ||| 0xC0 := BitVec.or_assoc a 0x80 0x40
  exact ⟨exec_encoder_of_idle h (congrArg some hcmd), exec_encoder_of_idle (i := .encWrite a) h rfl⟩

/-- Settles O18. -/
theorem framesAreAccepted : Obligations.FramesAreAccepted := by
  intro a v n s h
  refine ⟨exec_of_idle_of_ne_nil (i := .writeFrame a v) h rfl nofun nofun, ?_⟩
  rw [← xReadRegisters_eq]
  exact exec_of_idle_of_ne_nil (i := .readFrame a n) h rfl nofun nofun

/-- Settles O19. -/
theorem secondConfigurationIsRefused : Obligations.SecondConfigurationIsRefused :=
  fun _ h hd => ⟨exec_second_configuration h rfl hd, exec_second_configuration h rfl hd⟩

/-- Settles O3: the fields of the two command bytes for any operand, and the byte's place in what acceptance leaves to
do. -/
theorem addressOutOfRangeIsComputed : Obligations.AddressOutOfRangeIsComputed := by
  intro a v n s
  refine ⟨cmdAddr_encReadByte a, cmdAddr_encWriteByte a, cmdMB_encReadByte a, cmdMB_encWriteByte a,
    cmdRW_encReadByte a, cmdRW_encWriteByte a, fun h => ?_⟩
  obtain ⟨u, hu, rfl, -⟩ := readRegistersIsAccepted a n s h
  exact ⟨_, _, writeRegisterIsAccepted a v s h, by simp, hu, by simp⟩

/-- Completion changes `op` and the history only. -/
theorem finish_eq (s : State) : finish s = { s with op := (finish s).op, hist := (finish s).hist } := by
  rcases finish_cases s with ⟨e, -⟩ | ⟨_, -, -, e⟩
  · rw [e]
  · rw [e]; rfl

/-- Settles O20: executing changes the state by `latch`, `finish` or the encoder's result, and each of these leaves
every other field and the slave as they were. -/
theorem executionLeavesTheRestUnchanged : Obligations.ExecutionLeavesTheRestUnchanged := by
  intro i s t hexec
  rcases exec_cases i s with ⟨-, e⟩ | ⟨-, -, -, e⟩ | ⟨-, henc, -, e⟩ | ⟨r, -, henc, e⟩
  · cases e.symm.trans hexec
    exact ⟨rfl, fun _ => rfl, fun _ => ⟨rfl, rfl, rfl, rfl⟩, fun sl h => ⟨sl, h, fun _ => rfl⟩⟩
  · cases e.symm.trans hexec
  · cases e.symm.trans hexec
    refine ⟨?_, fun _ => by simp, fun h => absurd henc h, fun sl h => ⟨sl, by simpa using h, fun _ => rfl⟩⟩
    rw [finish_eq]
    rfl
  · cases e.symm.trans hexec
    exact ⟨rfl, fun h => absurd h (by simp [henc]), fun _ => ⟨rfl, rfl, rfl, rfl⟩,
      fun sl h => ⟨sl, h, fun _ => rfl⟩⟩

end Sys2Proof.Machine
end

section
/-! PROOFS. The turns of the two agents, said once (41_transport.md R101 to R103): what the sequencer does with the head of
`todo`, the events it emits, and the principle by which a property of the state is kept by every step. -/

namespace Sys2Proof.Machine

/-! ## A micro-operation performed -/

/-- `u` is what the micro-operation makes of `s` when it is performed and removed; a poll is when the image shows its
flag (R100, R102). -/
def Performs (m : MicroOp) (s u : State) : Prop :=
  match m with
  | .poll f b => flagOf f (srImage s) = b ∧ u = (rdSR (.passed f b) s).2
  | m => perform m s = .next u

/-- The events of a micro-operation that is performed in `s` (R23, R100). -/
def MicroOp.events (m : MicroOp) (s : State) : List Event :=
  match m with
  | .extPins => [.extPins]
  | .extBusEn => [.extBusEn]
  | .wrCRcfg => [.wcr Config.crCfg]
  | .cs level => [if level then .csDeassert else .csAssert]
  | .poll f b => [.rsr (srImage s) (.passed f b)]
  | .wrDRb v => [.wdr v]
  | .rdDRkeep => [.rdr s.rxbuf]
  | .rdDRdrop => [.rdr s.rxbuf]
  | .rdSRdrop => [.rsr (srImage s) .drain]
  | .setPower _ => []

/-- The bytes a micro-operation writes to DR. -/
def MicroOp.writes : MicroOp → List Byte
  | .wrDRb v => [v]
  | _ => []

/-- A performed micro-operation has emitted its events and has changed none of the sequencer's own fields but the
result. -/
theorem Performs.frame {m : MicroOp} {s u : State} (h : Performs m s u) :
    u.hist = s.hist ++ m.events s ∧ u.todo = s.todo ∧ u.op = s.op ∧ u.rstAfter = s.rstAfter ∧
      u.hostPort = s.hostPort ∧ u.txStream = s.txStream := by
  cases m with
  | poll f b => obtain ⟨-, rfl⟩ := h; simp [MicroOp.events]
  | wrCRcfg => obtain ⟨-, -, rfl⟩ := wrCR_eq_next.1 h; simp [MicroOp.events]
  | wrDRb v => obtain ⟨-, rfl⟩ := wrDR_eq_next.1 h; simp [MicroOp.events]
  | _ => cases h; simp [MicroOp.events]

theorem Performs.hist {m : MicroOp} {s u : State} (h : Performs m s u) : u.hist = s.hist ++ m.events s := h.frame.1

theorem Performs.op {m : MicroOp} {s u : State} (h : Performs m s u) : u.op = s.op := h.frame.2.2.1

/-! ## The traces of its events -/

theorem histMarks_events (m : MicroOp) (s : State) : histMarks (m.events s) = todoMarks [m] := by
  cases m
  case cs level => cases level <;> rfl
  all_goals rfl

theorem sinceAccept_append_events (h : List Event) (m : MicroOp) (s : State) :
    sinceAccept (h ++ m.events s) = sinceAccept h ++ m.events s := by
  cases m <;> simp only [MicroOp.events]
  case cs level => cases level <;> exact sinceAccept_append h _
  case setPower => simp
  all_goals exact sinceAccept_append h _

@[simp] theorem sentBytes_events (m : MicroOp) (s : State) : sentBytes (m.events s) = [] := by
  cases m
  case cs level => cases level <;> rfl
  all_goals rfl

@[simp] theorem writtenBytes_events (m : MicroOp) (s : State) : writtenBytes (m.events s) = m.writes := by
  cases m
  case cs level => cases level <;> rfl
  all_goals rfl

/-- On the bus a micro-operation is its own event and the words it hands to the engine. -/
theorem todoBusMarks_singleton (m : MicroOp) (s : State) :
    todoBusMarks [m] = busMarks (m.events s) ++ m.writes.map BusMark.sent := by
  cases m
  case cs level => cases level <;> rfl
  all_goals rfl

/-- Only `Cs` is on the bus at the moment it is performed. -/
theorem busMarks_events_of_not_cs {m : MicroOp} (s : State) (h : ∀ level, m ≠ .cs level) :
    busMarks (m.events s) = [] := by
  cases m
  case cs level => exact absurd rfl (h level)
  all_goals rfl

/-- The write of a byte is the only micro-operation that puts anything in flight. -/
theorem Performs.inFlight {m : MicroOp} {s u : State} (h : Performs m s u) :
    inFlight u = inFlight s ++ m.writes := by
  cases m with
  | poll f b => obtain ⟨-, rfl⟩ := h; simp [Machine.inFlight, MicroOp.writes]
  | wrCRcfg => obtain ⟨-, -, rfl⟩ := wrCR_eq_next.1 h; simp [Machine.inFlight, MicroOp.writes]
  | wrDRb v => obtain ⟨htxe, rfl⟩ := wrDR_eq_next.1 h; simp [Machine.inFlight, MicroOp.writes, htxe]
  | _ => cases h; simp [Machine.inFlight, MicroOp.writes]

/-! ## The sequencer's turn -/

/-- What the sequencer does when its turn ends in a next state: a poll is tried in vain, the head of `todo` is
performed, and in IDLE the block waits, accepts an operation or answers a request to the encoder. -/
inductive Turn (s : State) : State → Prop where
  | spin (f : Flag) (b : Bool) (rest : List MicroOp) (htodo : s.todo = .poll f b :: rest)
      (hflag : flagOf f (srImage s) ≠ b) : Turn s (rdSR (.failed f b) s).2
  | advance (m : MicroOp) (rest : List MicroOp) (u : State) (htodo : s.todo = m :: rest) (hm : Performs m s u) :
      Turn s (finish { u with todo := rest })
  | wait (hidle : s.todo = []) : Turn s s
  | accept (i : Instr) (hidle : s.todo = []) (henc : encoderResult i = none)
      (hcfg : configures i = true → s.cfgDone = false) : Turn s (finish (latch i (expansion i) s))
  | encode (r : Byte) (hidle : s.todo = []) : Turn s { s with encOut := r }

theorem performs_iff {m : MicroOp} {s u : State} (hm : ∀ f b, m ≠ .poll f b) :
    Performs m s u ↔ perform m s = .next u := by
  cases m
  case poll f b => exact absurd rfl (hm f b)
  all_goals exact Iff.rfl

theorem turn_of_seqStep {s t : State} (hbusy : s.todo ≠ []) (h : seqStep s = .next t) : Turn s t := by
  rcases seqStep_cases h with ⟨hidle, -⟩ | ⟨f, b, rest, htodo, rfl⟩ | ⟨m, rest, u, htodo, hm, hu, rfl⟩
  · exact absurd hidle hbusy
  · unfold pollStep
    split
    · rename_i hflag; exact .advance (.poll f b) rest _ htodo ⟨hflag, rfl⟩
    · rename_i hflag; exact .spin f b rest htodo hflag
  · exact .advance m rest u htodo ((performs_iff hm).2 hu)

theorem turn_of_exec {i : Instr} {s t : State} (hidle : s.todo = []) (h : exec i s = .next t) : Turn s t := by
  rcases exec_cases i s with ⟨hbusy, -⟩ | ⟨-, -, -, e⟩ | ⟨-, henc, hcfg, e⟩ | ⟨r, -, -, e⟩
  · exact absurd hidle hbusy
  · cases e.symm.trans h
  · cases e.symm.trans h; exact .accept i hidle henc hcfg
  · cases e.symm.trans h; exact .encode r hidle

/-! ## A step -/

/-- `s` with the ports, the reset pulses and the waiting counter replaced: what a turn may find changed before it
begins. -/
def State.around (s : State) (port : List Item) (stream : List Byte) (pulses : List Nat) (waited : Nat) : State :=
  { s with hostPort := port, txStream := stream, rstAfter := pulses, waited := waited }

theorem engineWaits_eq (s : State) : engineWaits s = { s with waited := (engineWaits s).waited } := by
  unfold engineWaits; split <;> rfl

/-- Everything a step can do: reset, the engine's step, or a turn of the sequencer, which finds the ports as they were
while an operation is in progress. -/
theorem step_inv {s t : State} (h : step s = .next t) :
    (resetDue s = true ∧ t = afterReset s) ∨
    (engineDue s = true ∧ engineStep (resetNearer s) = .next t) ∨
    (∃ port stream pulses waited, (s.todo ≠ [] → port = s.hostPort ∧ stream = s.txStream) ∧
      Turn (s.around port stream pulses waited) t) := by
  have hwaits : engineWaits (resetNearer s) =
      s.around s.hostPort s.txStream (pulsesNearer s.rstAfter) (engineWaits (resetNearer s)).waited :=
    engineWaits_eq (resetNearer s)
  rcases step_cases h with ⟨hr, ht⟩ | ⟨hdue, ht⟩ | ⟨hbusy, ht⟩ | ⟨hidle, -, rfl⟩ | ⟨i, u, hidle, hgot, ht⟩
  · exact .inl ⟨hr, ht⟩
  · exact .inr (.inl ⟨hdue, ht⟩)
  · rw [hwaits] at ht
    have hturn := turn_of_seqStep (by exact hbusy) ht
    exact .inr (.inr ⟨s.hostPort, s.txStream, _, _, fun _ => ⟨rfl, rfl⟩, hturn⟩)
  · have hturn : Turn (engineWaits (resetNearer s)) (engineWaits (resetNearer s)) := .wait (by simpa using hidle)
    rw [hwaits] at hturn ⊢
    exact .inr (.inr ⟨s.hostPort, s.txStream, _, _, fun _ => ⟨rfl, rfl⟩, hturn⟩)
  · obtain ⟨_, items, rest, -, -, rfl⟩ := fetch_got hgot
    rw [hwaits] at ht
    exact .inr (.inr ⟨items, rest, _, _, fun hbusy => absurd hidle hbusy, turn_of_exec hidle ht⟩)

theorem engineEnabled_of_engineDue {s : State} (h : engineDue s = true) : engineEnabled s = true := by
  simp only [engineDue, Bool.and_eq_true] at h
  exact h.1

/-- The engine that is enabled and quiet has a byte to load (R91). -/
theorem txe_false_of_engineEnabled {s : State} (hen : engineEnabled s = true) (hb : s.bsy = false) :
    s.txe = false := by
  simp only [engineEnabled, loadEnabled, doneEnabled, hb, Bool.not_false, Bool.and_true, Bool.and_false,
    Bool.or_false, Bool.and_eq_true, Bool.not_eq_true'] at hen
  exact hen.2

/-- A property is kept by every step when reset, both agents and the outside of the block keep it. -/
theorem step_keeps {P : State → Prop} {s t : State} (h : P s) (hstep : step s = .next t)
    (houtside : ∀ s port stream pulses waited, P s → P (s.around port stream pulses waited))
    (hreset : ∀ s, P s → P (afterReset s))
    (hengine : ∀ s t, P s → engineEnabled s = true → engineStep s = .next t → P t)
    (hturn : ∀ s t, P s → Turn s t → P t) : P t := by
  rcases step_inv hstep with ⟨-, rfl⟩ | ⟨hdue, ht⟩ | ⟨port, stream, pulses, waited, -, hturn'⟩
  · exact hreset s h
  · exact hengine _ t (houtside s s.hostPort s.txStream (pulsesNearer s.rstAfter) s.waited h)
      (engineEnabled_of_engineDue hdue) ht
  · exact hturn _ t (houtside s port stream pulses waited h) hturn'

end Sys2Proof.Machine
end

section
/-! PROOFS. The invariant of every step (10_state.md section 8, 41_transport.md R110, R111): a micro-operation takes the
flags from its phase to the next, and each agent keeps the invariant. -/

namespace Sys2Proof.Machine

/-! ## The phases -/

/-- A poll that an expansion performs in a phase finds nothing armed. -/
theorem ovrArm_of_poll {f : Flag} {b : Bool} {s : State} {p q : Phase} (hp : Phase.holds p s = true)
    (hq : Phase.after p (.poll f b) = some q) : s.ovrArm = false := by
  cases p <;> simp_all [Phase.after, Phase.holds, cleanFlags, sendingFlags]

/-- Every micro-operation of an expansion takes the flags of its phase to those of the phase after it. -/
theorem Performs.phase {m : MicroOp} {s u : State} {p q : Phase} (h : Performs m s u) (hp : Phase.holds p s = true)
    (hq : Phase.after p m = some q) : Phase.holds q u = true := by
  cases m with
  | wrCRcfg =>
    obtain ⟨-, -, rfl⟩ := wrCR_eq_next.1 h
    cases p <;> simp [Phase.after] at hq
    subst hq
    exact hp
  | wrDRb v =>
    obtain ⟨htxe, rfl⟩ := wrDR_eq_next.1 h
    cases p <;> simp [Phase.after] at hq <;> subst hq <;> simp_all [Phase.holds, cleanFlags, sendingFlags]
  | poll f b =>
    obtain ⟨hflag, rfl⟩ := h
    have harm := ovrArm_of_poll hp hq
    cases p <;> cases f <;> cases b <;> simp [Phase.after] at hq <;> subst hq
    case oneWord.txe.true => cases hr : s.rxne <;> simp_all [Phase.holds, sendingFlags]
    all_goals simp_all [Phase.holds, cleanFlags, sendingFlags]
  | _ =>
    cases h
    cases p <;> simp [Phase.after] at hq <;> subst hq <;> simp_all [Phase.holds, cleanFlags]

/-- In IDLE the invariant leaves the clean flags only (R25). -/
theorem Inv.cleanFlags_of_idle {s : State} (h : Inv s) (hidle : s.todo = []) : cleanFlags s = true := by
  obtain ⟨p, hp, halong⟩ := h.inPhase
  rw [hidle, Phase.along, Option.some.injEq] at halong
  subst halong
  exact hp

theorem cleanFlags_iff {s : State} :
    cleanFlags s = true ↔ s.txe = true ∧ s.rxne = false ∧ s.bsy = false ∧ s.ovr = false ∧ s.ovrArm = false := by
  simp [cleanFlags, and_assoc]

/-! ## The outside, reset and the engine keep the invariant -/

theorem Inv.around {s : State} (h : Inv s) (port : List Item) (stream : List Byte) (pulses : List Nat) (waited : Nat) :
    Inv (s.around port stream pulses waited) :=
  ⟨h.crLegal, h.armNeedsOvr, h.opInProgress, h.cfgInOrder, h.inPhase, h.memWf⟩

theorem slaveWf_afterReset {s : State} (h : slaveWf s = true) : slaveWf (afterReset s) = true := by
  unfold slaveWf at *
  cases hs : s.slave <;> simp_all [Slave.deselect]

theorem Inv.afterReset {s : State} (h : Inv s) : Inv (afterReset s) :=
  ⟨rfl, nofun, rfl, rfl, ⟨.clean, rfl, rfl⟩, slaveWf_afterReset h.memWf⟩

/-- The exchange of a word keeps the device's registers in canonical form. -/
theorem slaveWf_of_misoExchange {o i : Byte} {s : State} {sl : Option Slave} (h : slaveWf s = true)
    (hx : misoExchange o s = .next (i, sl)) : slaveWf { s with slave := sl } = true := by
  rcases misoExchange_cases hx with ⟨-, e⟩ | ⟨sl₀, i', sl₁, hs, hx', e⟩
  · cases e; rfl
  · cases e
    simp only [slaveWf, hs] at h
    exact Slave.exchange_keeps_wf _ _ _ _ _ h hx'

theorem Inv.engineStep {s t : State} (h : Inv s) (hen : engineEnabled s = true) (ht : engineStep s = .next t) :
    Inv t := by
  obtain ⟨p, hp, halong⟩ := h.inPhase
  rcases engineStep_cases ht with ⟨hb, rfl⟩ | ⟨hb, i, sl, hx, rfl⟩
  · have htxe := txe_false_of_engineEnabled hen hb
    exact ⟨h.crLegal, h.armNeedsOvr, h.opInProgress, h.cfgInOrder,
      ⟨p, Phase.holds_seLoad p s hp htxe hb, halong⟩, h.memWf⟩
  · refine ⟨by simpa using h.crLegal, ?_, by simpa using h.opInProgress, by simpa using h.cfgInOrder, ?_, ?_⟩
    · intro harm
      simp [h.armNeedsOvr (by simpa using harm)]
    · exact ⟨p, Phase.holds_seDone p i _ { s with slave := sl } hp hb, by simpa using halong⟩
    · simpa [slaveWf] using slaveWf_of_misoExchange h.memWf hx

/-! ## The sequencer keeps the invariant -/

/-- Completion restores the link between `op` and `todo`, and touches nothing else the invariant speaks of. -/
theorem Inv.of_finish {s : State} (hcr : if s.cfgDone then s.cr = Config.crCfg ∧ s.busClkEn = true else s.cr = 0)
    (harm : s.ovrArm = true → s.ovr = true) (hop : s.op.isSome = true)
    (hcfg : cfgOrder s.busClkEn s.cfgDone s.todo = true)
    (hphase : ∃ p : Phase, Phase.holds p s = true ∧ Phase.along p s.todo = some .clean)
    (hmem : slaveWf s = true) : Inv (finish s) := by
  rcases finish_cases s with ⟨e, hbusy | hnone⟩ | ⟨i, hidle, -, e⟩
  · rw [e]
    exact ⟨hcr, harm, by simp [hop, hbusy], hcfg, hphase, hmem⟩
  · simp [hnone] at hop
  · rw [e]
    exact ⟨hcr, harm, by simp [hidle], hcfg, hphase, hmem⟩

/-- The configuration goes on in its order, and CR keeps to its two values: the clock comes first and CR is written
once. -/
theorem Performs.configuration {m : MicroOp} {s u : State} {rest : List MicroOp} (h : Performs m s u)
    (hcr : if s.cfgDone then s.cr = Config.crCfg ∧ s.busClkEn = true else s.cr = 0)
    (hcfg : cfgOrder s.busClkEn s.cfgDone (m :: rest) = true) :
    (if u.cfgDone then u.cr = Config.crCfg ∧ u.busClkEn = true else u.cr = 0) ∧
      cfgOrder u.busClkEn u.cfgDone rest = true := by
  cases m with
  | poll f b => obtain ⟨-, rfl⟩ := h; exact ⟨hcr, hcfg⟩
  | wrDRb v => obtain ⟨-, rfl⟩ := wrDR_eq_next.1 h; exact ⟨hcr, hcfg⟩
  | wrCRcfg =>
    obtain ⟨-, -, rfl⟩ := wrCR_eq_next.1 h
    simp only [cfgOrder, Bool.and_eq_true] at hcfg
    obtain ⟨⟨hclk, -⟩, hrest⟩ := hcfg
    simpa [hclk] using hrest
  | extBusEn =>
    cases h
    refine ⟨?_, hcfg⟩
    cases hd : s.cfgDone <;> simp_all
  | _ => cases h; exact ⟨hcr, hcfg⟩

theorem Performs.armNeedsOvr {m : MicroOp} {s u : State} (h : Performs m s u) (harm : s.ovrArm = true → s.ovr = true) :
    u.ovrArm = true → u.ovr = true := by
  cases m with
  | poll f b => obtain ⟨-, rfl⟩ := h; simp
  | wrDRb v => obtain ⟨-, rfl⟩ := wrDR_eq_next.1 h; exact harm
  | wrCRcfg => obtain ⟨-, -, rfl⟩ := wrCR_eq_next.1 h; exact harm
  | rdSRdrop => cases h; simp
  | rdDRkeep | rdDRdrop => cases h; simpa [or_imp] using harm
  | _ => cases h; exact harm

theorem slaveWf_driveCs {level : Bool} {s : State} (h : slaveWf s = true) : slaveWf (driveCs level s) = true := by
  unfold slaveWf at *
  cases hs : s.slave <;> cases level <;> cases hp : s.pinsCfg <;> simp_all [Slave.select, Slave.deselect]

theorem Performs.slaveWf {m : MicroOp} {s u : State} (h : Performs m s u) (hwf : slaveWf s = true) :
    slaveWf u = true := by
  cases m with
  | poll f b => obtain ⟨-, rfl⟩ := h; exact hwf
  | wrDRb v => obtain ⟨-, rfl⟩ := wrDR_eq_next.1 h; exact hwf
  | wrCRcfg => obtain ⟨-, -, rfl⟩ := wrCR_eq_next.1 h; exact hwf
  | cs level => cases h; exact slaveWf_driveCs hwf
  | _ => cases h; exact hwf

theorem Inv.advance {m : MicroOp} {rest : List MicroOp} {s u : State} (h : Inv s) (htodo : s.todo = m :: rest)
    (hm : Performs m s u) : Inv (finish { u with todo := rest }) := by
  obtain ⟨p, hp, halong⟩ := h.inPhase
  obtain ⟨q, hq, halong'⟩ := Phase.along_cons (htodo ▸ halong)
  obtain ⟨hcr, hcfg⟩ := hm.configuration h.crLegal (htodo ▸ h.cfgInOrder)
  have hop : u.op.isSome = true := by rw [hm.op, h.opInProgress]; simp [htodo]
  exact Inv.of_finish hcr (hm.armNeedsOvr h.armNeedsOvr) hop hcfg ⟨q, hm.phase hp hq, halong'⟩
    (hm.slaveWf h.memWf)

/-- A poll tried in vain changes no flag, since it finds nothing armed. -/
theorem Inv.spin {f : Flag} {b : Bool} {rest : List MicroOp} {s : State} (h : Inv s)
    (htodo : s.todo = .poll f b :: rest) : Inv (rdSR (.failed f b) s).2 := by
  obtain ⟨p, hp, halong⟩ := h.inPhase
  obtain ⟨q, hq, -⟩ := Phase.along_cons (htodo ▸ halong)
  have harm := ovrArm_of_poll hp hq
  have hp' : Phase.holds p (rdSR (.failed f b) s).2 = true := by
    rw [Phase.holds_congr p s] <;> simp [harm, hp]
  exact ⟨h.crLegal, by simp, h.opInProgress, h.cfgInOrder, ⟨p, hp', halong⟩, h.memWf⟩

theorem Inv.accept {i : Instr} {s : State} (h : Inv s) (hidle : s.todo = [])
    (hcfg : configures i = true → s.cfgDone = false) : Inv (finish (latch i (expansion i) s)) :=
  Inv.of_finish (s := latch i (expansion i) s) h.crLegal h.armNeedsOvr rfl (cfgOrder_expansion i _ _ hcfg)
    ⟨.clean, h.cleanFlags_of_idle hidle, along_expansion i⟩ h.memWf

theorem Inv.turn {s t : State} (h : Inv s) (hturn : Turn s t) : Inv t := by
  cases hturn with
  | spin f b rest htodo hflag => exact h.spin htodo
  | advance m rest u htodo hm => exact h.advance htodo hm
  | wait hidle => exact h
  | accept i hidle henc hcfg => exact h.accept hidle hcfg
  | encode r hidle =>
    exact ⟨h.crLegal, h.armNeedsOvr, h.opInProgress, h.cfgInOrder, h.inPhase, h.memWf⟩

theorem Inv.step {s t : State} (h : Inv s) (hstep : step s = .next t) : Inv t :=
  step_keeps h hstep (fun _ port stream pulses waited h => h.around port stream pulses waited)
    (fun _ h => h.afterReset) (fun _ _ h => h.engineStep) (fun _ _ h => h.turn)

/-- Settles O39: reset, both agents and the outside keep the invariant, and in IDLE its phase is the clean one. -/
theorem stepKeepsTheInvariant : Obligations.StepKeepsTheInvariant := by
  intro s t hinv hstep
  have ht := hinv.step hstep
  exact ⟨ht, fun hidle => cleanFlags_iff.1 (ht.cleanFlags_of_idle hidle)⟩

end Sys2Proof.Machine
end

section
/-! PROOFS. The orders every step keeps: the bytes on the wire (20_memory.md R55 b), the operation in the register trace
(10_state.md R20) and on the bus (R62). -/

namespace Sys2Proof.Machine

/-! ## The engine's events -/

/-- The engine sends the first byte in flight or moves it to the shift register, and leaves the operation alone
(R91, R92). -/
theorem engineStep_events {s t : State} (hen : engineEnabled s = true) (h : engineStep s = .next t) :
    ∃ ev, t.hist = s.hist ++ ev ∧ sinceAccept t.hist = sinceAccept s.hist ++ ev ∧
      sentBytes ev ++ inFlight t = inFlight s ∧ writtenBytes ev = [] ∧ histMarks ev = [] ∧
      busMarks ev = (sentBytes ev).map BusMark.sent ∧ t.todo = s.todo ∧ t.op = s.op := by
  rcases engineStep_cases h with ⟨hb, rfl⟩ | ⟨hb, i, sl, -, rfl⟩
  · have htxe := txe_false_of_engineEnabled hen hb
    refine ⟨[.start s.txbuf], rfl, sinceAccept_append _ _, ?_, rfl, rfl, rfl, rfl, rfl⟩
    simp [inFlight, hb, htxe, sentBytes]
  · cases htxe : s.txe
    · refine ⟨[.xfer s.shout i, .start s.txbuf], by simp, ?_, ?_, rfl, rfl, rfl, by simp, by simp⟩
      · simp [sinceAccept]
      · simp [inFlight, hb, htxe, sentBytes]
    · refine ⟨[.xfer s.shout i], by simp, ?_, ?_, rfl, rfl, rfl, by simp, by simp⟩
      · simp [sinceAccept]
      · simp [inFlight, hb, htxe, sentBytes]

/-! ## Completion -/

/-- A property that holds while the operation is latched holds of what completion makes of the state: DONE leaves no
operation. -/
theorem finish_of_latched {P : Instr → State → Prop} {s : State} (h : ∀ i, s.op = some i → P i s) :
    ∀ i, (finish s).op = some i → P i (finish s) := by
  intro i hop
  rcases finish_cases s with ⟨e, -⟩ | ⟨_, -, -, e⟩
  · rw [e] at hop ⊢
    exact h i hop
  · simp [e] at hop

/-- DONE is neither a write nor a word on the wire. -/
theorem finish_wire (s : State) : writtenBytes (finish s).hist = writtenBytes s.hist ∧
    sentBytes (finish s).hist = sentBytes s.hist ∧ inFlight (finish s) = inFlight s := by
  rcases finish_cases s with ⟨e, -⟩ | ⟨i, -, -, e⟩ <;> simp [e, writtenBytes, sentBytes, inFlight]

theorem ProgramOrder.of_finish {s : State} (h : ProgramOrder s) : ProgramOrder (finish s) :=
  finish_of_latched
    (P := fun i s => histMarks (sinceAccept s.hist) ++ todoMarks s.todo = todoMarks (expansion i)) h

theorem BusOrder.of_finish {s : State} (h : BusOrder s) : BusOrder (finish s) :=
  finish_of_latched
    (P := fun i s => busMarks (sinceAccept s.hist) ++ (inFlight s).map BusMark.sent ++ todoBusMarks s.todo
      = todoBusMarks (expansion i)) h

theorem WireOrder.of_finish {s : State} (h : WireOrder s) : WireOrder (finish s) := by
  obtain ⟨hw, hs, hf⟩ := finish_wire s
  rw [WireOrder, hw, hs, hf]
  exact h

/-! ## The order of the bytes -/

theorem WireOrder.engineStep {s t : State} (h : WireOrder s) (hen : engineEnabled s = true)
    (ht : engineStep s = .next t) : WireOrder t := by
  obtain ⟨ev, hhist, -, hflight, hwritten, -⟩ := engineStep_events hen ht
  rw [WireOrder] at h
  rw [WireOrder, hhist, writtenBytes_append, sentBytes_append, hwritten, h, List.append_nil, List.append_assoc,
    hflight]

theorem WireOrder.advance {m : MicroOp} {s u : State} (h : WireOrder s) (hm : Performs m s u) : WireOrder u := by
  rw [WireOrder] at h
  rw [WireOrder, hm.hist, writtenBytes_append, sentBytes_append, writtenBytes_events, sentBytes_events, hm.inFlight, h,
    List.append_nil, List.append_assoc]

/-- Settles O40: the engine sends the first byte in flight, and only `WrDR` adds one, at the end. -/
theorem stepKeepsTheWireOrder : Obligations.StepKeepsTheWireOrder := by
  intro s t h hstep
  refine step_keeps h hstep (fun _ _ _ _ _ h => h) (fun _ _ => rfl) (fun _ _ h => h.engineStep) ?_
  intro s t h hturn
  cases hturn with
  | spin f b rest htodo hflag =>
    simpa [WireOrder, writtenBytes, sentBytes, inFlight] using h
  | advance m rest u htodo hm =>
    have hu : WireOrder u := h.advance hm
    exact WireOrder.of_finish (s := { u with todo := rest }) hu
  | wait hidle => exact h
  | accept i hidle henc hcfg =>
    exact WireOrder.of_finish (by simpa [WireOrder, writtenBytes, sentBytes, inFlight] using h)
  | encode r hidle => exact h

/-! ## The order of the operation -/

/-- Settles O41: an engine step leaves no mark, and a micro-operation leaves in the history the mark it takes from
`todo`. -/
theorem stepKeepsTheProgramOrder : Obligations.StepKeepsTheProgramOrder := by
  intro s t h hstep
  refine step_keeps h hstep (fun _ _ _ _ _ h => h) (fun _ _ => nofun) ?_ ?_
  · intro s t h hen ht i hop
    obtain ⟨ev, -, hsince, -, -, hmarks, -, htodo, hop'⟩ := engineStep_events hen ht
    rw [hsince, histMarks_append, hmarks, htodo, List.append_nil]
    exact h i (hop' ▸ hop)
  · intro s t h hturn
    cases hturn with
    | spin f b rest htodo hflag =>
      intro i hop
      rw [rdSR_hist, sinceAccept_append, histMarks_append]
      show histMarks (sinceAccept s.hist) ++ [] ++ todoMarks s.todo = _
      rw [List.append_nil]
      exact h i hop
    | advance m rest u htodo hm =>
      refine ProgramOrder.of_finish fun i hop => ?_
      have horder := h i (hm.op ▸ hop)
      rw [htodo, todoMarks_cons] at horder
      rw [← horder]
      show histMarks (sinceAccept u.hist) ++ todoMarks rest = _
      rw [hm.hist, sinceAccept_append_events, histMarks_append, histMarks_events, List.append_assoc]
    | wait hidle => exact h
    | accept i hidle henc hcfg =>
      refine ProgramOrder.of_finish fun j hop => ?_
      cases hop
      rw [latch_hist, sinceAccept_append]
      rfl
    | encode r hidle => exact h

/-! ## The order on the bus -/

/-- An expansion moves chip-select only in the clean phase, in which nothing is in flight (R62). -/
theorem inFlight_of_cs {level : Bool} {rest : List MicroOp} {s : State} (h : Inv s)
    (htodo : s.todo = .cs level :: rest) : inFlight s = [] := by
  obtain ⟨p, hp, halong⟩ := h.inPhase
  obtain ⟨q, hq, -⟩ := Phase.along_cons (htodo ▸ halong)
  cases p <;> simp [Phase.after] at hq
  obtain ⟨htxe, -, hbsy, -⟩ := cleanFlags_iff.1 hp
  simp [inFlight, htxe, hbsy]

/-- The micro-operation's own bus event comes behind the words in flight, since one of the two is missing. -/
theorem busMarks_events_comm {m : MicroOp} {rest : List MicroOp} {s : State} (h : Inv s) (htodo : s.todo = m :: rest) :
    busMarks (m.events s) ++ (inFlight s).map BusMark.sent = (inFlight s).map BusMark.sent ++ busMarks (m.events s) := by
  by_cases hcs : ∃ level, m = .cs level
  · obtain ⟨level, rfl⟩ := hcs
    simp [inFlight_of_cs h htodo]
  · rw [busMarks_events_of_not_cs s (fun level e => hcs ⟨level, e⟩), List.nil_append, List.append_nil]

theorem BusOrder.turn {s t : State} (hinv : Inv s) (h : BusOrder s) (hturn : Turn s t) : BusOrder t := by
  cases hturn with
  | spin f b rest htodo hflag =>
    intro i hop
    rw [rdSR_hist, sinceAccept_append, busMarks_append]
    show busMarks (sinceAccept s.hist) ++ [] ++ (inFlight s).map BusMark.sent ++ todoBusMarks s.todo = _
    rw [List.append_nil]
    exact h i hop
  | advance m rest u htodo hm =>
    refine BusOrder.of_finish fun i hop => ?_
    have horder := h i (hm.op ▸ hop)
    have hcomm := busMarks_events_comm hinv htodo
    rw [htodo, todoBusMarks_cons, todoBusMarks_singleton m s] at horder
    show busMarks (sinceAccept u.hist) ++ (inFlight u).map BusMark.sent ++ todoBusMarks rest = _
    rw [← horder, hm.hist, sinceAccept_append_events, busMarks_append, hm.inFlight, List.map_append]
    simp only [List.append_assoc]
    rw [← List.append_assoc (busMarks (m.events s)), hcomm, List.append_assoc]
  | wait hidle => exact h
  | accept i hidle henc hcfg =>
    refine BusOrder.of_finish fun j hop => ?_
    cases hop
    have hflight : inFlight (latch i (expansion i) s) = [] := by
      obtain ⟨htxe, -, hbsy, -⟩ := cleanFlags_iff.1 (hinv.cleanFlags_of_idle hidle)
      simp [inFlight, htxe, hbsy]
    rw [hflight, latch_hist, sinceAccept_append]
    rfl
  | encode r hidle => exact h

/-- Settles O42: the engine moves a word from in flight to the bus, a DR write from `todo` to in flight, and `Cs` moves
when nothing is in flight. -/
theorem stepKeepsTheBusOrder : Obligations.StepKeepsTheBusOrder := by
  intro s t hinv h hstep
  have hboth : Inv t ∧ BusOrder t := by
    refine step_keeps (P := fun s => Inv s ∧ BusOrder s) ⟨hinv, h⟩ hstep ?_ ?_ ?_ ?_
    · exact fun _ port stream pulses waited h => ⟨h.1.around port stream pulses waited, h.2⟩
    · exact fun _ h => ⟨h.1.afterReset, nofun⟩
    · rintro s t ⟨hinv, h⟩ hen ht
      refine ⟨hinv.engineStep hen ht, fun i hop => ?_⟩
      obtain ⟨ev, -, hsince, hflight, -, -, hbus, htodo, hop'⟩ := engineStep_events hen ht
      have horder := h i (hop' ▸ hop)
      rw [← hflight, List.map_append] at horder
      rw [hsince, busMarks_append, hbus, htodo, ← horder]
      simp only [List.append_assoc]
    · exact fun _ _ h hturn => ⟨h.1.turn hturn, BusOrder.turn h.1 h.2 hturn⟩
  exact hboth.2

end Sys2Proof.Machine
end

section
/-! PROOFS. What a step refuses, what it leaves alone and who writes what (60_exceptions.md R140, 10_state.md sections 2
to 7, 20_memory.md R56). -/

namespace Sys2Proof.Machine

/-! ## No fault, and no refusal of the block's own accesses -/

theorem idleStep_never_faults (s : State) (e : Fault) : idleStep s ≠ .fault e := by
  unfold idleStep
  split
  · nofun
  · rename_i i t _
    rcases exec_cases i t with ⟨-, h⟩ | ⟨-, -, -, h⟩ | ⟨-, -, -, h⟩ | ⟨_, -, -, h⟩ <;> rw [h] <;> nofun
  · nofun

/-- Settles O43: neither reset, nor the engine, nor the sequencer's turn faults. -/
theorem stepNeverFaults : Obligations.StepNeverFaults := by
  intro s e h
  rw [step_eq] at h
  split at h
  · cases h
  · unfold agentStep at h
    split at h
    · exact engineStep_never_faults _ _ h
    · unfold sequencerTurn at h
      split at h
      · exact idleStep_never_faults _ _ h
      · exact seqStep_never_faults _ _ h

theorem seqStep_refuses {s : State} {e : Refusal} (h : seqStep s = .refused e) :
    ∃ m rest, s.todo = m :: rest ∧ perform m s = .refused e := by
  unfold seqStep at h
  split at h
  · cases h
  · cases h
  · rename_i m rest _ htodo
    rcases thenDo_eq_refused.mp h with hm | ⟨_, _, h'⟩
    · exact ⟨m, rest, htodo, hm⟩
    · cases h'

/-- IDLE refuses a request that names no operation and a second configuration. -/
theorem idleStep_refuses {s : State} {e : Refusal} (h : idleStep s = .refused e) :
    (∃ r, e = refusalOf r) ∨ e = .secondConfiguration := by
  unfold idleStep at h
  split at h
  · cases h
  · rename_i i t _
    rcases exec_cases i t with ⟨-, h'⟩ | ⟨-, -, -, h'⟩ | ⟨-, -, -, h'⟩ | ⟨_, -, -, h'⟩ <;> cases h'.symm.trans h
    exact .inr rfl
  · rename_i r hfetch
    cases h
    unfold fetch at hfetch
    split at hfetch
    · cases hfetch
    · split at hfetch <;> cases hfetch
      exact .inl ⟨_, rfl⟩

/-- Everything a step can refuse. -/
theorem step_refuses {s : State} {e : Refusal} (h : step s = .refused e) :
    (engineEnabled s = true ∧ (e = .slaveNoAutoIncrement ∨ e = .slavePastLast)) ∨
    (∃ m rest pulses waited, s.todo = m :: rest ∧
      perform m (s.around s.hostPort s.txStream pulses waited) = .refused e) ∨
    (s.todo = [] ∧ ((∃ r, e = refusalOf r) ∨ e = .secondConfiguration)) := by
  rw [step_eq] at h
  split at h
  · cases h
  · unfold agentStep at h
    split at h
    · rename_i hdue
      exact .inl ⟨engineEnabled_of_engineDue (s := s) hdue, (engineStep_refuses h).2⟩
    · unfold sequencerTurn at h
      split at h
      · rename_i hidle
        exact .inr (.inr ⟨by simpa using hidle, idleStep_refuses h⟩)
      · obtain ⟨m, rest, htodo, hm⟩ := seqStep_refuses h
        rw [engineWaits_eq] at hm
        exact .inr (.inl ⟨m, rest, _, _, by simpa using htodo, hm⟩)

/-- In a state that meets the invariant no micro-operation of the block is refused: a DR write finds TXE = 1 (R110 a,
R111 a) and the CR write is the first (R104). -/
theorem Inv.perform_not_refused {m : MicroOp} {rest : List MicroOp} {s : State} {e : Refusal} (h : Inv s)
    (htodo : s.todo = m :: rest) : perform m s ≠ .refused e := by
  intro hm
  rcases perform_refuses hm with ⟨rfl, hdone, -⟩ | ⟨v, rfl, htxe, -⟩
  · have hcfg := h.cfgInOrder
    simp [htodo, cfgOrder, hdone] at hcfg
  · obtain ⟨p, hp, halong⟩ := h.inPhase
    obtain ⟨q, hq, -⟩ := Phase.along_cons (htodo ▸ halong)
    cases p <;> simp_all [Phase.after, Phase.holds, cleanFlags]

theorem engineEnabled_of_cleanFlags {s : State} (h : cleanFlags s = true) : engineEnabled s = false := by
  obtain ⟨htxe, -, hbsy, -⟩ := cleanFlags_iff.1 h
  simp [engineEnabled, loadEnabled, doneEnabled, htxe, hbsy]

/-- Settles O44: the engine refuses for the slave, and only while a word is under way; the block's own accesses are
never refused; IDLE refuses what the port presents. -/
theorem onlyTheOutsideIsRefused : Obligations.OnlyTheOutsideIsRefused := by
  intro s e hinv h
  rcases step_refuses h with ⟨hen, he⟩ | ⟨m, rest, pulses, waited, htodo, hm⟩ | ⟨hidle, he⟩
  · have hbusy : s.todo ≠ [] := fun hidle => by
      simp [engineEnabled_of_cleanFlags (hinv.cleanFlags_of_idle hidle)] at hen
    exact ⟨by rcases he with rfl | rfl <;> rfl, fun _ => he, fun hidle => absurd hidle hbusy⟩
  · exact absurd hm ((hinv.around s.hostPort s.txStream pulses waited).perform_not_refused htodo)
  · rcases he with ⟨op | b | -, rfl⟩ | rfl
    · exact ⟨rfl, fun hbusy => absurd hidle hbusy, fun _ => .inl ⟨op, rfl⟩⟩
    · exact ⟨rfl, fun hbusy => absurd hidle hbusy, fun _ => .inr (.inl ⟨b, rfl⟩)⟩
    · exact ⟨rfl, fun hbusy => absurd hidle hbusy, fun _ => .inr (.inr (.inl rfl))⟩
    · exact ⟨rfl, fun hbusy => absurd hidle hbusy, fun _ => .inr (.inr (.inr rfl))⟩

/-! ## The engine alone -/

/-- Settles O33: SE-LOAD and SE-DONE set flags and clear none but BSY. -/
theorem seenFlagsAreStable : Obligations.SeenFlagsAreStable := by
  intro s t hen ht
  have hmoves : ¬ (s.txe = true ∧ s.bsy = false) := fun ⟨htxe, hb⟩ => by
    simp [txe_false_of_engineEnabled hen hb] at htxe
  rcases engineStep_cases ht with ⟨-, rfl⟩ | ⟨-, i, sl, -, rfl⟩
  · exact ⟨fun _ => rfl, id, id, rfl, hmoves, rfl, rfl, rfl, rfl, rfl⟩
  · refine ⟨by simp, by simp, fun hovr => ?_, by simp, hmoves, by simp, by simp, by simp, by simp, by simp⟩
    simp [hovr]

@[simp] theorem advance_regs (sl : Slave) : (Slave.advance sl).regs = sl.regs := by
  unfold Slave.advance; split <;> rfl

/-- Settles O35: the only exchange that stores is that of the write phase, at the slave's own pointer. -/
theorem slaveStoresOneRegister : Obligations.SlaveStoresOneRegister := by
  intro o x i sl sl' hwf hx
  refine ⟨Slave.exchange_keeps_wf o x i sl sl' hwf hx, fun hwr => ?_, fun hwr => ?_⟩
  · simp only [Slave.exchange, hwr] at hx
    cases hx
    rw [advance_regs]
    exact ⟨Memory.read_write_same _ _ _ hwf, fun a ha => Memory.read_write_other _ _ _ _ ha⟩
  · unfold Slave.exchange at hx
    split at hx
    · cases hx; rfl
    · split at hx <;> cases hx
      rfl
    · exact absurd ‹_› hwr
    · cases hx; exact advance_regs sl
    · cases hx

/-! ## Who writes what -/

/-- The rules of 10_state.md sections 2 to 7 on who writes what, for one move from `s` to `t`: `due` says that the move
is the engine's and `head` is the micro-operation at the head of `todo`. -/
structure WritersOnly (due : Prop) (head : Option MicroOp) (s t : State) : Prop where
  engineRegisters : t.rxbuf ≠ s.rxbuf ∨ t.shout ≠ s.shout ∨ t.bsy ≠ s.bsy → due
  txeSet : s.txe = false → t.txe = true → due
  rxneSet : s.rxne = false → t.rxne = true → due
  ovrSet : s.ovr = false → t.ovr = true → due
  txbuf : t.txbuf ≠ s.txbuf ∨ (s.txe = true ∧ t.txe = false) → ∃ v, head = some (.wrDRb v)
  rxneCleared : s.rxne = true → t.rxne = false → head = some .rdDRkeep ∨ head = some .rdDRdrop
  ovrArmSet : s.ovrArm = false → t.ovrArm = true →
    s.ovr = true ∧ (head = some .rdDRkeep ∨ head = some .rdDRdrop)
  ovrCleared : (s.ovr = true ∧ t.ovr = false) ∨ (s.ovrArm = true ∧ t.ovrArm = false) →
    s.ovrArm = true ∧ (head = some .rdSRdrop ∨ ∃ f b, head = some (.poll f b))
  cr : t.cr ≠ s.cr ∨ t.cfgDone ≠ s.cfgDone → head = some .wrCRcfg
  csN : t.csN ≠ s.csN → ∃ l, head = some (.cs l)
  busClkEn : t.busClkEn ≠ s.busClkEn → head = some .extBusEn
  pinsCfg : t.pinsCfg ≠ s.pinsCfg → head = some .extPins
  devPower : t.devPower ≠ s.devPower → ∃ p, head = some (.setPower p)
  rxout : t.rxout ≠ s.rxout → head = some .rdDRkeep ∨ s.todo = []
  op : t.op ≠ s.op → s.todo = [] ∨ t.todo = []
  slave : t.slave ≠ s.slave → due ∨ ∃ l, head = some (.cs l)
  encOut : t.encOut ≠ s.encOut → s.todo = []

theorem WritersOnly.of_engineStep {head : Option MicroOp} {s t : State} (hen : engineEnabled s = true)
    (ht : engineStep s = .next t) : WritersOnly True head s t := by
  rcases engineStep_cases ht with ⟨hb, rfl⟩ | ⟨hb, i, sl, -, rfl⟩
  · constructor <;> simp_all [txe_false_of_engineEnabled hen hb]
  · constructor <;> simp_all

/-- A read of SR clears what is armed only (20_memory.md R46). -/
theorem ovrArm_of_rdSR_clears {use : SrUse} {s : State}
    (h : (s.ovr = true ∧ (rdSR use s).2.ovr = false) ∨ (s.ovrArm = true ∧ (rdSR use s).2.ovrArm = false)) :
    s.ovrArm = true := by
  cases hovr : s.ovr <;> simp_all

/-- A performed micro-operation is the writer of what it changes. -/
theorem Performs.writersOnly {m : MicroOp} {s u : State} (h : Performs m s u) :
    WritersOnly False (some m) s u := by
  cases m with
  | poll f b =>
    obtain ⟨-, rfl⟩ := h
    constructor
    case ovrCleared => exact fun h => ⟨ovrArm_of_rdSR_clears h, .inr ⟨f, b, rfl⟩⟩
    all_goals simp_all
  | rdSRdrop =>
    cases h
    constructor
    case ovrCleared => exact fun h => ⟨ovrArm_of_rdSR_clears h, .inl rfl⟩
    all_goals simp_all
  | wrDRb v => obtain ⟨-, rfl⟩ := wrDR_eq_next.1 h; constructor <;> simp_all
  | wrCRcfg => obtain ⟨-, -, rfl⟩ := wrCR_eq_next.1 h; constructor <;> simp_all
  | _ => cases h; constructor <;> simp_all

/-- Completion writes `op` and the history only. -/
theorem WritersOnly.advance {due : Prop} {head : Option MicroOp} {rest : List MicroOp} {s u : State}
    (h : WritersOnly due head s u) (hop : u.op = s.op) :
    WritersOnly due head s (finish { u with todo := rest }) := by
  have hdone : (finish { u with todo := rest }).op ≠ s.op → s.todo = [] ∨ (finish { u with todo := rest }).todo = [] :=
    fun hne => .inr (by simpa using finish_op_ne (hop ▸ hne))
  rw [finish_eq] at hdone ⊢
  exact { h with op := hdone }

theorem WritersOnly.of_turn {s t : State} (hturn : Turn s t) : WritersOnly False s.todo.head? s t := by
  cases hturn with
  | spin f b rest htodo hflag =>
    rw [htodo]
    constructor
    case ovrCleared => exact fun h => ⟨ovrArm_of_rdSR_clears h, .inr ⟨f, b, rfl⟩⟩
    all_goals simp_all
  | advance m rest u htodo hm => rw [htodo]; exact hm.writersOnly.advance hm.op
  | wait hidle => constructor <;> simp_all
  | accept i hidle henc hcfg => constructor <;> simp_all
  | encode r hidle => constructor <;> simp_all

/-- A turn of the sequencer leaves the ports as it finds them. -/
theorem Turn.ports {s t : State} (hturn : Turn s t) : t.hostPort = s.hostPort ∧ t.txStream = s.txStream := by
  cases hturn with
  | advance m rest u htodo hm =>
    obtain ⟨-, -, -, -, hport, hstream⟩ := hm.frame
    simp [hport, hstream]
  | _ => simp

/-- Settles O45: the engine's step and the sequencer's turn each keep to the rules, and before its turn the sequencer
takes from the ports in IDLE only. -/
theorem onlyTheirWritersChangeThem : Obligations.OnlyTheirWritersChangeThem := by
  intro s t hreset hstep
  rcases step_inv hstep with ⟨hr, -⟩ | ⟨hdue, ht⟩ | ⟨port, stream, pulses, waited, hports, hturn⟩
  · simp [hreset] at hr
  · have h := WritersOnly.of_engineStep (head := s.todo.head?) (engineEnabled_of_engineDue (s := resetNearer s) hdue) ht
    have hports : t.hostPort = s.hostPort ∧ t.txStream = s.txStream := by
      rcases engineStep_cases ht with ⟨-, rfl⟩ | ⟨-, _, _, -, rfl⟩ <;> simp
    exact ⟨fun _ => hdue, fun _ _ => hdue, fun _ _ => hdue, fun _ _ => hdue, h.txbuf, h.rxneCleared, h.ovrArmSet,
      h.ovrCleared, h.cr, h.csN, h.busClkEn, h.pinsCfg, h.devPower, h.rxout, h.op, fun _ => .inl hdue,
      fun hne => by simp [hports] at hne, h.encOut⟩
  · have h := WritersOnly.of_turn hturn
    refine ⟨fun hne => (h.engineRegisters hne).elim, fun h0 h1 => (h.txeSet h0 h1).elim,
      fun h0 h1 => (h.rxneSet h0 h1).elim, fun h0 h1 => (h.ovrSet h0 h1).elim, h.txbuf, h.rxneCleared, h.ovrArmSet,
      h.ovrCleared, h.cr, h.csN, h.busClkEn, h.pinsCfg, h.devPower, h.rxout, h.op,
      fun hne => (h.slave hne).imp_left False.elim, fun hne => ?_, h.encOut⟩
    by_contra hbusy
    obtain ⟨hp, hs⟩ := hports hbusy
    obtain ⟨hp', hs'⟩ := hturn.ports
    rcases hne with hne | hne
    · exact hne (hp'.trans hp)
    · exact hne (hs'.trans hs)

/-! ## The history and the latch -/

theorem finish_hist_extends (s : State) : s.hist <+: (finish s).hist := by
  rcases finish_cases s with ⟨e, -⟩ | ⟨i, -, -, e⟩ <;> simp [e]

theorem Turn.hist_extends {s t : State} (hturn : Turn s t) : s.hist <+: t.hist := by
  cases hturn with
  | spin f b rest htodo hflag => exact List.prefix_append _ _
  | advance m rest u htodo hm =>
    have hu : s.hist <+: u.hist := hm.hist ▸ List.prefix_append _ _
    exact hu.trans (finish_hist_extends { u with todo := rest })
  | wait hidle => exact List.prefix_refl _
  | accept i hidle henc hcfg =>
    have hlatch : s.hist <+: (latch i (expansion i) s).hist := List.prefix_append _ _
    exact hlatch.trans (finish_hist_extends _)
  | encode r hidle => exact List.prefix_refl _

/-- An operation in progress stays latched until completion emits its DONE. -/
theorem finish_latched_or_done {s : State} {i : Instr} (hop : s.op = some i) :
    ((finish s).op = some i ∧ (finish s).todo ≠ []) ∨
    ((finish s).op = none ∧ (finish s).todo = [] ∧ (finish s).hist.getLast? = some (.done i (finish s).rxout)) := by
  by_cases hidle : s.todo = []
  · rw [finish_of_op hidle hop]
    simp [hidle]
  · rw [finish_of_busy hidle]
    exact .inl ⟨hop, hidle⟩

theorem Turn.latched_or_done {s t : State} {i : Instr} (hturn : Turn s t) (hop : s.op = some i) (hbusy : s.todo ≠ []) :
    (t.op = some i ∧ t.todo ≠ []) ∨
    (t.op = none ∧ t.todo = [] ∧ t.hist.getLast? = some (.done i t.rxout)) := by
  cases hturn with
  | spin f b rest htodo hflag => exact .inl ⟨hop, hbusy⟩
  | advance m rest u htodo hm => exact finish_latched_or_done (s := { u with todo := rest }) (hm.op.trans hop)
  | wait hidle => exact absurd hidle hbusy
  | accept i hidle henc hcfg => exact absurd hidle hbusy
  | encode r hidle => exact absurd hidle hbusy

/-- Settles O46: the engine leaves `op` and `todo` alone, and the sequencer's turn ends an operation by completion
only. -/
theorem operandsStayLatchedUntilDone : Obligations.OperandsStayLatchedUntilDone := by
  intro s t hreset hstep
  rcases step_inv hstep with ⟨hr, -⟩ | ⟨hdue, ht⟩ | ⟨port, stream, pulses, waited, -, hturn⟩
  · simp [hreset] at hr
  · obtain ⟨ev, hhist, -, -, -, -, -, htodo, hop⟩ := engineStep_events (engineEnabled_of_engineDue (s := resetNearer s) hdue) ht
    exact ⟨hhist ▸ List.prefix_append _ _, fun i hi hbusy => .inl ⟨hop.trans hi, fun h => hbusy (htodo ▸ h)⟩⟩
  · exact ⟨hturn.hist_extends, fun i hi hbusy => hturn.latched_or_done hi hbusy⟩

end Sys2Proof.Machine
end

section
/-! PROOFS. The parts of a step as the rules give them: the accesses of the peripheral registers (20_memory.md sections 1
and 2), the micro-operations (41_transport.md R100 to R102), the engine and the slave (40_shift_engine.md section 2,
20_memory.md R60), reset and the turn of each agent. -/

namespace Sys2Proof.Machine

/-! ## The peripheral registers -/

theorem rdDR_of_nothing_pending {s : State} (hrxne : s.rxne = false) (hovr : s.ovr = false) :
    (rdDR s).2 = { s with hist := s.hist ++ [.rdr s.rxbuf] } := by
  simp [rdDR, State.emit, hovr, ← hrxne]

/-- Settles O21. -/
theorem readOfDR : Obligations.ReadOfDR := by
  intro s
  refine ⟨?_, rdDR_of_nothing_pending, rfl, rfl⟩
  cases hovr : s.ovr <;> simp [rdDR, State.emit, hovr]

theorem wrCR_eq_refused_of_other {v : CrWord} {s : State} (h : v ≠ 0x034F) : wrCR v s = .refused (.crOtherValue v) := by
  have hv : v ≠ Config.crCfg := h
  simp [wrCR, hv]

theorem wrCR_eq_refused_of_cfgDone {s : State} (h : s.cfgDone = true) :
    wrCR Config.crCfg s = .refused .secondConfiguration := by
  simp [wrCR, h]

@[simp] theorem pregAt_pregAddress (r : PReg) : pregAt (pregAddress r) = some r := by
  cases r <;> simp [pregAt, pregAddress, pregOffset]

/-- Settles O24: the four branches of `wrCR`, and the enable bits of the value written. -/
theorem writeOfCR : Obligations.WriteOfCR := by
  intro s
  refine ⟨fun hd => wrCR_eq_next.2 ⟨rfl, hd, rfl⟩, fun t hclk ht => ?_, fun v => wrCR_eq_refused_of_other,
    wrCR_eq_refused_of_cfgDone, by simp [busRead]⟩
  obtain ⟨-, -, rfl⟩ := wrCR_eq_next.1 ht
  have hbits : crSPE 0x034F = true ∧ crMSTR 0x034F = true := by decide
  exact seOn_iff.2 ⟨hclk, hbits⟩

theorem pregAt_eq_none {a : Nat} (hcr : a ≠ pregAddress .cr) (hsr : a ≠ pregAddress .sr) (hdr : a ≠ pregAddress .dr) :
    pregAt a = none := by
  simp [pregAt, hcr, hsr, hdr]

/-- Settles O25: each of the three addresses is its register's, and any other is none's. -/
theorem peripheralRegisterMap : Obligations.PeripheralRegisterMap := by
  intro s v
  have hcr : pregAt Config.spiBase = some .cr := pregAt_pregAddress .cr
  have hsr : pregAt (Config.spiBase + 0x08) = some .sr := pregAt_pregAddress .sr
  have hdr : pregAt (Config.spiBase + 0x0C) = some .dr := pregAt_pregAddress .dr
  refine ⟨by simp [busRead, hdr], by simp [busRead, hsr], by simp [busWrite, hdr], by simp [busWrite, hcr],
    by simp [busWrite, hsr], fun a h0 h8 hC => ?_⟩
  have hnone : pregAt a = none := pregAt_eq_none h0 h8 hC
  simp [busRead, busWrite, hnone]

/-- The image of SR, bit by bit (10_state.md R15). -/
theorem srImage_bits (s : State) :
    (srImage s).getLsbD 7 = s.bsy ∧ (srImage s).getLsbD 6 = s.ovr ∧ (srImage s).extractLsb' 2 4 = 0 ∧
      (srImage s).getLsbD 1 = s.txe ∧ (srImage s).getLsbD 0 = s.rxne := by
  unfold srImage
  cases s.bsy <;> cases s.ovr <;> cases s.txe <;> cases s.rxne <;> decide

/-- Settles O26: the fields of CR_CFG are computed, those of the image are read off its four flags. -/
theorem controlAndStatusFields : Obligations.ControlAndStatusFields := by
  refine ⟨by decide, fun s => ?_⟩
  obtain ⟨hbsy, hovr, hzero, htxe, hrxne⟩ := srImage_bits s
  exact ⟨hbsy, hovr, hzero, htxe, hrxne, flagOf_srImage .txe s, flagOf_srImage .rxne s, flagOf_srImage .bsy s⟩

/-! ## SEQ-STEP -/

/-- SEQ-STEP of a micro-operation that is performed (R101). -/
theorem seqStep_of_performs {m : MicroOp} {rest : List MicroOp} {s u : State} (htodo : s.todo = m :: rest)
    (hm : Performs m s u) : seqStep s = .next (finish { u with todo := rest }) := by
  cases m
  case poll f b =>
    obtain ⟨hflag, rfl⟩ := hm
    simp only [seqStep, htodo, pollStep, if_pos hflag]
  all_goals simp only [seqStep, htodo, (performs_iff (by nofun)).1 hm, thenDo_next]

/-- The same with more to do behind it: nothing completes. -/
theorem seqStep_of_performs_of_ne_nil {m : MicroOp} {rest : List MicroOp} {s u : State} (hne : rest ≠ [])
    (htodo : s.todo = m :: rest) (hm : Performs m s u) : seqStep s = .next { u with todo := rest } := by
  rw [seqStep_of_performs htodo hm, finish_of_busy (s := { u with todo := rest }) hne]

/-- SEQ-STEP of a poll that is tried in vain (R102). -/
theorem seqStep_of_spin {f : Flag} {b : Bool} {rest : List MicroOp} {s : State} (htodo : s.todo = .poll f b :: rest)
    (hflag : flagOf f (srImage s) ≠ b) : seqStep s = .next (rdSR (.failed f b) s).2 := by
  simp only [seqStep, htodo, pollStep, if_neg hflag]

/-- Settles O27: each row of the table is a performed micro-operation with more to do behind it. -/
theorem microOperationsOfTheTable : Obligations.MicroOperationsOfTheTable := by
  intro s m rest hne
  have run {m : MicroOp} {u : State} (hm : Performs m s u) (htodo : s.todo = m :: rest) :
      seqStep s = .next { u with todo := rest } := seqStep_of_performs_of_ne_nil hne htodo hm
  refine ⟨run (m := .extPins) rfl, run (m := .extBusEn) rfl, fun htodo hd => ?_, run (m := .cs false) rfl,
    run (m := .cs true) rfl, fun v htodo htxe => ?_, run (m := .rdDRkeep) rfl, run (m := .rdDRdrop) rfl,
    run (m := .rdSRdrop) rfl, fun p => run (m := .setPower p) rfl, fun htodo t ht => ?_⟩
  · exact run (m := .wrCRcfg) (wrCR_eq_next.2 ⟨rfl, hd, rfl⟩) htodo
  · exact run (m := .wrDRb v) (wrDR_eq_next.2 ⟨htxe, rfl⟩) htodo
  · cases turn_of_seqStep (by simp [htodo]) ht with
    | spin f b rest' htodo' hflag => rfl
    | advance m' rest' u htodo' hm =>
      obtain ⟨rfl, rfl⟩ := List.cons.inj (htodo.symm.trans htodo')
      rw [finish_of_busy (s := { u with todo := rest }) hne]
      exact hm.op
    | wait hidle => rfl
    | accept i hidle henc hcfg => simp [htodo] at hidle
    | encode r hidle => rfl

/-- Settles O28. -/
theorem pollPassesOrSpins : Obligations.PollPassesOrSpins :=
  fun _ _ _ _ htodo hne => ⟨fun hflag => seqStep_of_performs_of_ne_nil hne htodo ⟨hflag, rfl⟩,
    fun hflag => seqStep_of_spin htodo hflag⟩

/-- Completion by the last micro-operation (R109). -/
theorem seqStep_of_last {m : MicroOp} {i : Instr} {s u : State} (htodo : s.todo = [m]) (hop : s.op = some i)
    (hm : Performs m s u) :
    seqStep s = .next { u with todo := [], op := none, hist := u.hist ++ [.done i u.rxout] } := by
  rw [seqStep_of_performs htodo hm, finish_of_op (s := { u with todo := [] }) rfl (hm.op.trans hop)]
  rfl

/-- Settles O29. -/
theorem lastMicroOperationCompletes : Obligations.LastMicroOperationCompletes := by
  intro s m i htodo hop
  refine ⟨fun u hm hu => seqStep_of_last htodo hop ((performs_iff hm).2 hu), fun f b hm hflag => ?_⟩
  subst hm
  rw [seqStep_of_last htodo hop ⟨hflag, rfl⟩]
  simp [rdSR, State.emit]

/-! ## The engine -/

theorem doneEnabled_iff {s : State} : doneEnabled s = true ↔ seOn s = true ∧ s.bsy = true := by
  simp [doneEnabled]

/-- Settles O30. -/
theorem engineLoads : Obligations.EngineLoads := by
  intro s
  refine ⟨loadEnabled_iff, fun h => ?_⟩
  obtain ⟨-, -, hb⟩ := loadEnabled_iff.1 h
  simp [engineStep, hb, engineMoved, seLoad, State.emit]

theorem engineStep_of_bsy {s : State} {i : Byte} {sl : Option Slave} (hb : s.bsy = true)
    (hx : misoExchange s.shout s = .next (i, sl)) :
    engineStep s = .next (engineMoved (seDone i (Config.overrunByte s.draws) { s with slave := sl })) := by
  simp [engineStep, hb, hx]

/-- Settles O31: SE-DONE by cases on the unread byte and on the waiting byte. -/
theorem engineCompletesAWord : Obligations.EngineCompletesAWord := by
  intro s i sl e
  refine ⟨doneEnabled_iff, fun h hx => ?_, fun h hx => ?_⟩
  · obtain ⟨-, hb⟩ := doneEnabled_iff.1 h
    rw [engineStep_of_bsy hb hx]
    cases s.rxne <;> cases s.txe <;> simp [engineMoved, seDone, seReceive, seContinue, State.emit, hb]
  · obtain ⟨-, hb⟩ := doneEnabled_iff.1 h
    simp [engineStep, hb, hx]

/-! ## The byte on MISO -/

theorem misoExchange_of_none {o : Byte} {s : State} (h : s.slave = none) :
    misoExchange o s = .next (Config.misoByte s.draws, none) := by
  simp [misoExchange, h]

theorem misoExchange_of_some {o i : Byte} {s : State} {sl sl' : Slave} (h : s.slave = some sl)
    (hx : Slave.exchange o (Config.misoByte s.draws) sl = .next (i, sl')) : misoExchange o s = .next (i, some sl') := by
  simp [misoExchange, h, hx]

theorem exchange_of_cmd {o x : Byte} {sl : Slave} (hmode : sl.mode = .cmd) (hmb : cmdMB o = true) :
    Slave.exchange o x sl =
      .next (x, { sl with ptr := cmdAddr o, mb := true, mode := if cmdRW o then .rd else .wr }) := by
  simp [Slave.exchange, hmode, hmb]

theorem exchange_of_wr {o x : Byte} {sl : Slave} (hmode : sl.mode = .wr) :
    Slave.exchange o x sl = .next (x, Slave.advance { sl with regs := Memory.write sl.regs sl.ptr.toNat o }) := by
  simp [Slave.exchange, hmode]

theorem exchange_of_rd {o x : Byte} {sl : Slave} (hmode : sl.mode = .rd) :
    Slave.exchange o x sl = .next (Memory.read sl.regs sl.ptr.toNat, Slave.advance sl) := by
  simp [Slave.exchange, hmode]

/-- Settles O34: the slave's exchange mode by mode. -/
theorem misoByteAndTheReferenceSlave : Obligations.MisoByteAndTheReferenceSlave := by
  intro o x s sl
  refine ⟨misoExchange_of_none, fun h i sl' hx => misoExchange_of_some h hx, rfl, rfl, fun h => ?_, fun h hmb => ?_,
    fun h hmb => exchange_of_cmd h hmb, exchange_of_wr, exchange_of_rd, fun h => ?_⟩
  · simp [Slave.exchange, h]
  · have hmb' : cmdMB o = false := hmb
    simp [Slave.exchange, h, hmb']
  · simp [Slave.exchange, h]

/-! ## Reset -/

/-- Settles O36: the table is computed, and the pins are read off the marks. -/
theorem resetValuesOfTheTable : Obligations.ResetValuesOfTheTable := by
  refine ⟨by decide, fun s => ⟨fun h => ?_, fun h => ?_, fun h hcr hb => ?_⟩⟩
  · simp [csPin, sckIdlePin, h]
  · simp [csPin, h]
  · simp [sckIdlePin, h, hcr, hb, Config.crCfg]

/-- Settles O37. -/
theorem resetAbandonsEverything : Obligations.ResetAbandonsEverything := by
  intro s ks hrst
  have hdue : resetDue s = true := by simp [resetDue, hrst]
  refine ⟨afterReset s, by simp [step_eq, hdue], by simp [afterReset, hrst], fun sl hsl => ?_⟩
  exact ⟨Slave.deselect sl, by simp [hsl], rfl⟩

/-- Settles O38. -/
theorem resetMeetsTheInvariants : Obligations.ResetMeetsTheInvariants :=
  ⟨⟨rfl, nofun, rfl, rfl, ⟨.clean, rfl, rfl⟩, rfl⟩, rfl, nofun, nofun⟩

/-! ## The turn of an agent -/

theorem step_of_engineDue {s : State} (hrst : resetDue s = false) (hdue : engineDue s = true) :
    step s = engineStep (resetNearer s) := by
  have hdue' : engineDue (resetNearer s) = true := hdue
  simp [step_eq, hrst, agentStep, hdue']

theorem step_of_sequencer {s : State} (hrst : resetDue s = false) (hdue : engineDue s = false) :
    step s = sequencerTurn (engineWaits (resetNearer s)) := by
  have hdue' : engineDue (resetNearer s) = false := hdue
  simp [step_eq, hrst, agentStep, hdue']

theorem sequencerTurn_of_busy {s : State} (h : s.todo ≠ []) : sequencerTurn s = seqStep s := by
  simp [sequencerTurn, h]

theorem sequencerTurn_of_idle {s : State} (h : s.todo = []) : sequencerTurn s = idleStep s := by
  simp [sequencerTurn, h]

theorem idleStep_of_nothing {s : State} (hport : s.hostPort = []) : idleStep s = .next s := by
  simp [idleStep, fetch, hport]

theorem idleStep_of_short {s : State} {it : Item} {items : List Item} (hport : s.hostPort = it :: items)
    (hdec : decode it s.txStream = .short) : idleStep s = .next s := by
  simp [idleStep, fetch, hport, hdec]

/-- Settles O7: a step that is no reset is the engine's, SEQ-STEP or the request port's, by what is due and what is left
to do. -/
theorem stepRunsThePresentedInstruction : Obligations.StepRunsThePresentedInstruction := by
  intro s r w hrst hr hw
  obtain rfl : r = resetNearer s := hr
  subst hw
  refine ⟨step_of_engineDue hrst, fun hdue hbusy => ?_, fun hdue hidle hport => ?_,
    fun it items hdue hidle hport => ⟨fun i rest hdec => ?_, fun hdec => ?_, fun e hdec => ?_⟩⟩
  · rw [step_of_sequencer hrst hdue, sequencerTurn_of_busy (by simpa using hbusy)]
  all_goals rw [step_of_sequencer hrst hdue, sequencerTurn_of_idle (by simpa using hidle)]
  · exact idleStep_of_nothing (by simpa using hport)
  · exact idleStep_of_ok (it := it) (by simpa using hport) (by simpa using hdec)
  · exact idleStep_of_short (it := it) (items := items) (by simpa using hport) (by simpa using hdec)
  · exact idleStep_of_reject (it := it) (items := items) (by simpa using hport) (by simpa using hdec)

/-! ## The opcode table's words on the port -/

theorem decodeTransmit_encodeStream {l : Nat} {bytes rest : List Byte} {i : Instr} (stream : List Byte)
    (h : decodeTransmit l bytes = .ok i rest) : decodeTransmit l (encodeStream i ++ stream) = .ok i stream := by
  unfold decodeTransmit at h
  split at h <;> cases h
  have hlen : (bytes.take l).length = l := by simp; omega
  have happ := decodeTransmit_append (bytes.take l) stream
  rwa [hlen] at happ

/-- An item that decodes to an instruction before some bytes decodes to it before the bytes the instruction takes, and
leaves what stands behind them: only a TRANSMIT looks at the stream (30_encoding.md R83). -/
theorem decode_encodeStream {it : Item} {bytes rest : List Byte} {i : Instr} (stream : List Byte)
    (h : decode it bytes = .ok i rest) : decode it (encodeStream i ++ stream) = .ok i stream := by
  cases it with
  | cmdByte b =>
    simp only [decode] at h ⊢
    fun_cases decodeCmdByte b bytes <;> simp_all [decodeCmdByte] <;> obtain ⟨rfl, -⟩ := h <;> rfl
  | frame ws =>
    simp only [decode] at h ⊢
    fun_cases decodeFrame ws bytes <;> simp_all [decodeFrame] <;> obtain ⟨rfl, -⟩ := h <;> rfl
  | cw w =>
    simp only [decode] at h ⊢
    fun_cases decodeCW w bytes <;> simp_all [decodeCW]
    case case4 => exact decodeTransmit_encodeStream stream h
    all_goals obtain ⟨rfl, -⟩ := h ; rfl

/-- The item of a table word, with the bytes it is presented before, decodes to the word's instruction. -/
theorem decode_tableStream {nbits w : Nat} {i : Instr} (stream : List Byte) (h : decodeTableWord nbits w = some i) :
    ∃ it, itemOfTableWord nbits w = some it ∧ decode it (tableStream nbits w ++ stream) = .ok i stream := by
  have hbytes : tableStream nbits w = encodeStream i := by simp [tableStream, h]
  unfold decodeTableWord at h
  split at h
  · cases h
  · rename_i it hitem
    split at h <;> cases h
    rename_i hdec
    exact ⟨it, hitem, hbytes ▸ decode_encodeStream stream hdec⟩

/-! ## A step with no reset on its way -/

theorem resetDue_of_noReset {s : State} (h : s.rstAfter = []) : resetDue s = false := by
  simp [resetDue, h]

theorem resetNearer_of_noReset {s : State} (h : s.rstAfter = []) : resetNearer s = s := by
  cases s
  cases h
  rfl

theorem engineWaits_of_quiet {s : State} (h : engineEnabled s = false) : engineWaits s = s := by
  simp [engineWaits, h]

/-- With the engine at rest the step is the sequencer's, in the state as it is. -/
theorem step_of_quiet {s : State} (hrst : s.rstAfter = []) (hen : engineEnabled s = false) :
    step s = sequencerTurn s := by
  rw [step_of_sequencer (resetDue_of_noReset hrst) (engineDue_of_engineEnabled_false hen),
    resetNearer_of_noReset hrst, engineWaits_of_quiet hen]

/-- Settles O8: the port presents the word's item before everything else, and accepting it restores the ports. -/
theorem presentedTableWordRunsNext : Obligations.PresentedTableWordRunsNext := by
  intro s nbits w i hidle hen hrst hword
  obtain ⟨it, hitem, hdec⟩ := decode_tableStream s.txStream hword
  have hpresent : s.withFetchWord nbits w = present it (tableStream nbits w) s := by
    simp [State.withFetchWord, presentTableWord, hitem]
  have hen' : engineEnabled (present it (tableStream nbits w) s) = false := hen
  rw [hpresent, step_of_quiet (by simpa using hrst) hen', sequencerTurn_of_idle (by simpa using hidle),
    idleStep_of_ok (present_hostPort it _ s) hdec]
  rfl

/-! ## The wire and the samples -/

/-- The bits of a byte put together again (20_memory.md R49). -/
theorem assemble_wireBits (b : Byte) : assemble (wireBits b) = b := by
  revert b; decide

/-- Both sides sample their bits in the order they were sent. -/
theorem samples_wordWave (o i : Byte) :
    samples Edge.mosi (wordWave o i) = wireBits o ∧ samples Edge.miso (wordWave o i) = wireBits i :=
  ⟨rfl, rfl⟩

/-- Settles O59. -/
theorem wordTravelsMostSignificantBitFirst : Obligations.WordTravelsMostSignificantBitFirst := by
  intro o i
  obtain ⟨hmosi, hmiso⟩ := samples_wordWave o i
  refine ⟨rfl, rfl, hmosi.trans rfl, ?_, ?_⟩
  · rw [hmosi, assemble_wireBits]
  · rw [hmiso, assemble_wireBits]

/-- The pair as an unsigned number, its high byte above its low byte (R51). -/
theorem toNat_append_bytes (high low : Byte) : (high ++ low : BitVec 16).toNat = high.toNat * 256 + low.toNat := by
  rw [BitVec.toNat_append, ← Nat.shiftLeft_add_eq_or_of_lt low.isLt, Nat.shiftLeft_eq]

theorem sampleValue_eq (low high : Byte) : sampleValue low high =
    if high.toNat < 128 then (high.toNat * 256 + low.toNat : Int)
    else (high.toNat * 256 + low.toNat : Int) - 65536 := by
  have hlow := low.isLt
  rw [sampleValue, BitVec.toInt_eq_toNat_cond, toNat_append_bytes]
  split <;> split <;> push_cast <;> omega

/-- Settles O60. -/
theorem samplePairsAreLittleEndian : Obligations.SamplePairsAreLittleEndian :=
  ⟨sampleValue_eq, by decide, by decide⟩

end Sys2Proof.Machine
end

section
/-! PROOFS. Runs (70_reset_and_hazards.md R162, 40_shift_engine.md R96): reaching a state, and the one liveness argument, by
which the sequencer comes to perform the head of `todo` in every schedule of a fair engine. -/

namespace Sys2Proof.Machine

/-! ## Reaching a state -/

/-- Some number of steps leads from `s` to `t`. -/
def Leads (s t : State) : Prop := ∃ k, Sys2Proof.core.run k s = .next t

theorem run_succ (k : Nat) (s : State) :
    Sys2Proof.core.run (k + 1) s = thenDo (step s) fun u => Sys2Proof.core.run k u := by
  have hcore : Sys2Proof.core.step s = step s := rfl
  simp only [Host.Core.run, hcore]
  cases step s <;> rfl

theorem run_succ_of_step {k : Nat} {s u t : State} (h : step s = .next u) (hk : Sys2Proof.core.run k u = .next t) :
    Sys2Proof.core.run (k + 1) s = .next t :=
  (run_succ k s).trans (thenDo_eq_next.2 ⟨u, h, hk⟩)

theorem run_one_of_step {s t : State} (h : step s = .next t) : Sys2Proof.core.run 1 s = .next t :=
  run_succ_of_step h rfl

theorem Leads.refl (s : State) : Leads s s := ⟨0, rfl⟩

theorem Leads.of_step {s u t : State} (h : step s = .next u) (hut : Leads u t) : Leads s t := by
  obtain ⟨k, hk⟩ := hut
  exact ⟨k + 1, run_succ_of_step h hk⟩

theorem leads_of_run {k : Nat} {s t u : State} (h : Sys2Proof.core.run k s = .next t) (htu : Leads t u) : Leads s u := by
  induction k generalizing s with
  | zero => cases h; exact htu
  | succ k ih =>
    obtain ⟨v, hv, hrest⟩ := thenDo_eq_next.1 ((run_succ k s).symm.trans h)
    exact Leads.of_step hv (ih hrest)

theorem Leads.trans {s t u : State} (hst : Leads s t) (htu : Leads t u) : Leads s u :=
  hst.elim fun _ h => leads_of_run h htu

theorem Inv.run {k : Nat} {s t : State} (hinv : Inv s) (h : Sys2Proof.core.run k s = .next t) : Inv t := by
  induction k generalizing s with
  | zero => cases h; exact hinv
  | succ k ih =>
    obtain ⟨v, hv, hrest⟩ := thenDo_eq_next.1 ((run_succ k s).symm.trans h)
    exact ih (hinv.step hv) hrest

/-! ## Steps without a reset on its way -/

theorem step_of_engineDue_of_noReset {s : State} (hrst : s.rstAfter = []) (hdue : engineDue s = true) :
    step s = engineStep s := by
  rw [step_of_engineDue (resetDue_of_noReset hrst) hdue, resetNearer_of_noReset hrst]

theorem step_of_busy {s : State} (hrst : s.rstAfter = []) (hdue : engineDue s = false) (hbusy : s.todo ≠ []) :
    step s = seqStep (engineWaits s) := by
  rw [step_of_sequencer (resetDue_of_noReset hrst) hdue, resetNearer_of_noReset hrst,
    sequencerTurn_of_busy (by simpa using hbusy)]

/-- With the engine at rest the head of `todo` is performed at once. -/
theorem step_of_quiet_of_performs {m : MicroOp} {rest : List MicroOp} {s u : State} (hrst : s.rstAfter = [])
    (hen : engineEnabled s = false) (htodo : s.todo = m :: rest) (hm : Performs m s u) :
    step s = .next (finish { u with todo := rest }) := by
  rw [step_of_quiet hrst hen, sequencerTurn_of_busy (by simp [htodo]), seqStep_of_performs htodo hm]

/-! ## The sequencer comes to its turn -/

/-- The steps the engine still has before it is at rest: two for a byte in TXBUF, one for a word on the wire
(R91, R92). -/
def engineWork (s : State) : Nat := 2 * (!s.txe).toNat + s.bsy.toNat

theorem engineWork_lt {s u : State} (hen : engineEnabled s = true) (h : engineStep s = .next u) :
    engineWork u < engineWork s := by
  rcases engineStep_cases h with ⟨hb, rfl⟩ | ⟨hb, i, sl, -, rfl⟩
  · simp [engineWork, txe_false_of_engineEnabled hen hb, hb]
  · cases htxe : s.txe <;> simp [engineWork, hb, htxe]

/-- The steps the sequencer has before an enabled engine takes its next one (R96). -/
def patience (s : State) : Nat := Config.engineDelay s.draws - s.waited

/-- The micro-operation has nothing to wait for: it is no poll, or a poll that passes. -/
def Passes (m : MicroOp) (s : State) : Prop := ∀ f b, m = .poll f b → flagOf f (srImage s) = b

/-- In every schedule the head of `todo` comes to be performed, in a state of which `J` holds, when the engine's steps
and the polls tried in vain keep `J` and no poll fails while the engine is at rest. The engine's work, and between two of
its steps its patience, run out. -/
theorem leads_to_performed {J : State → Prop} {m : MicroOp} {rest : List MicroOp}
    (hbusy : ∀ s, J s → s.todo = m :: rest ∧ s.rstAfter = [])
    (hwaited : ∀ s w, J s → J { s with waited := w })
    (hengine : ∀ s, J s → engineEnabled s = true → ∃ u, engineStep s = .next u ∧ J u)
    (hspin : ∀ s f b, J s → m = .poll f b → flagOf f (srImage s) ≠ b →
      engineEnabled s = true ∧ J (rdSR (.failed f b) s).2)
    {s : State} (hs : J s) :
    ∃ t, J t ∧ Passes m t ∧ ∀ u, Performs m t u → Leads s (finish { u with todo := rest }) := by
  induction hwork : engineWork s using Nat.strong_induction_on generalizing s with
  | _ work ihWork =>
  induction hpatience : patience s using Nat.strong_induction_on generalizing s with
  | _ left ihPatience =>
  obtain ⟨htodo, hrst⟩ := hbusy s hs
  have hw : J (engineWaits s) := engineWaits_eq s ▸ hwaited s _ hs
  have htodo' : (engineWaits s).todo = m :: rest := (engineWaits_todo s).trans htodo
  cases hdue : engineDue s with
  | true =>
    have hen := engineEnabled_of_engineDue hdue
    obtain ⟨u, hu, hJu⟩ := hengine s hs hen
    obtain ⟨t, hJt, hpass, hleads⟩ := ihWork _ (hwork ▸ engineWork_lt hen hu) hJu rfl
    have hstep : step s = .next u := (step_of_engineDue_of_noReset hrst hdue).trans hu
    exact ⟨t, hJt, hpass, fun v hv => Leads.of_step hstep (hleads v hv)⟩
  | false =>
    have hstep : step s = seqStep (engineWaits s) := step_of_busy hrst hdue (by simp [htodo])
    by_cases hpass : Passes m (engineWaits s)
    · refine ⟨engineWaits s, hw, hpass, fun u hu => ?_⟩
      exact Leads.of_step (hstep.trans (seqStep_of_performs htodo' hu)) (Leads.refl _)
    · simp only [Passes, not_forall] at hpass
      obtain ⟨f, b, rfl, hflag⟩ := hpass
      obtain ⟨hen', hJu⟩ := hspin _ f b hw rfl hflag
      have hen : engineEnabled s = true := by rwa [engineWaits_eq] at hen'
      have hless : patience (rdSR (.failed f b) (engineWaits s)).2 < left := by
        have hlt : s.waited < Config.engineDelay s.draws := by simpa [engineDue, hen] using hdue
        simp [patience, hen, ← hpatience]
        omega
      have hsame : engineWork (rdSR (.failed f b) (engineWaits s)).2 = work := by simp [engineWork, ← hwork]
      obtain ⟨t, hJt, hpass, hleads⟩ := ihPatience _ hless hJu hsame rfl
      have hstep' : step s = .next (rdSR (.failed f b) (engineWaits s)).2 :=
        hstep.trans (seqStep_of_spin htodo' hflag)
      exact ⟨t, hJt, hpass, fun v hv => Leads.of_step hstep' (hleads v hv)⟩

/-! ## An operation that has ended -/

@[simp] theorem cleanFlags_finish (s : State) : cleanFlags (finish s) = cleanFlags s := by
  simp [cleanFlags]

@[simp] theorem seOn_finish (s : State) : seOn (finish s) = seOn s := seOn_congr (by simp) (by simp)

/-- An operation completes when its expansion leads to a state with nothing left to do, of which `P` holds. -/
theorem Completes.of_leads {i : Instr} {s t : State} {ev : List Event} {P : State → List Event → Prop}
    (hidle : s.todo = []) (henc : encoderResult i = none) (hcfg : configures i = true → s.cfgDone = false)
    (hleads : Leads (finish (latch i (expansion i) s)) (finish t)) (htodo : t.todo = []) (hop : t.op = some i)
    (hhist : t.hist = s.hist ++ [.accept i] ++ ev) (hP : P (finish t) ev) : Completes i s P := by
  obtain ⟨k, hk⟩ := hleads
  refine ⟨_, exec_of_idle hidle henc hcfg, k, finish t, ev, hk, by simpa using htodo, ?_, ?_, hP⟩
  · simp [finish_of_op htodo hop]
  · simp [finish_of_op htodo hop, hhist]

end Sys2Proof.Machine
end

section
/-! PROOFS. Every operation ends, whatever its expansion (41_transport.md sections 4 and 5, 40_shift_engine.md R96), and one
that writes to DR before the configuration does not (R90, R142). -/

namespace Sys2Proof.Machine

/-! ## The engine's power along an operation -/

theorem seOn_of_engineEnabled {s : State} (h : engineEnabled s = true) : seOn s = true := by
  cases hon : seOn s
  · simp [engineEnabled_of_seOn_false hon] at h
  · rfl

theorem seOn_engineStep {s t : State} (h : engineStep s = .next t) : seOn t = seOn s := by
  rcases engineStep_cases h with ⟨-, rfl⟩ | ⟨-, i, sl, -, rfl⟩
  · rfl
  · exact seOn_congr (by simp) (by simp)

theorem willFinish_iff {s : State} :
    willFinish s = true ↔ seOn s = true ∨ (cleanFlags s = true ∧ powered false s.todo = true) := by
  simp [willFinish]

/-- No micro-operation turns the engine off, and the CR write of an expansion turns it on (R28, R104). -/
theorem Performs.keepsOn {m : MicroOp} {s u : State} {rest : List MicroOp} (h : Performs m s u)
    (hcfg : cfgOrder s.busClkEn s.cfgDone (m :: rest) = true) (hon : seOn s = true ∨ m = .wrCRcfg) :
    seOn u = true := by
  cases m with
  | poll f b => obtain ⟨-, rfl⟩ := h; exact (seOn_congr rfl rfl).trans (hon.resolve_right nofun)
  | wrDRb v => obtain ⟨-, rfl⟩ := wrDR_eq_next.1 h; exact (seOn_congr rfl rfl).trans (hon.resolve_right nofun)
  | wrCRcfg =>
    obtain ⟨-, -, rfl⟩ := wrCR_eq_next.1 h
    simp only [cfgOrder, Bool.and_eq_true] at hcfg
    obtain ⟨⟨hclk, -⟩, -⟩ := hcfg
    have hbits : crSPE Config.crCfg = true ∧ crMSTR Config.crCfg = true := by decide
    exact seOn_iff.2 ⟨hclk, hbits⟩
  | extBusEn =>
    cases h
    obtain ⟨-, hbits⟩ := seOn_iff.1 (hon.resolve_right nofun)
    exact seOn_iff.2 ⟨rfl, hbits⟩
  | _ => cases h; exact (seOn_congr rfl rfl).trans (hon.resolve_right nofun)

/-- Clean flags stay clean but for a write to DR. -/
theorem Performs.keepsClean {m : MicroOp} {s u : State} (h : Performs m s u) (hc : cleanFlags s = true)
    (hm : m.writes = []) : cleanFlags u = true := by
  cases m with
  | poll f b => obtain ⟨-, rfl⟩ := h; simp_all [cleanFlags]
  | wrDRb v => simp [MicroOp.writes] at hm
  | wrCRcfg => obtain ⟨-, -, rfl⟩ := wrCR_eq_next.1 h; exact hc
  | _ => cases h; simp_all [cleanFlags]

/-- The engine is on for every DR write that is left, or will be before it. -/
theorem Performs.keepsWillFinish {m : MicroOp} {rest : List MicroOp} {s u : State} (h : Performs m s u)
    (htodo : s.todo = m :: rest) (hcfg : cfgOrder s.busClkEn s.cfgDone (m :: rest) = true)
    (hwill : willFinish s = true) : willFinish { u with todo := rest } = true := by
  rw [willFinish_iff] at hwill ⊢
  by_cases hon : seOn s = true ∨ m = .wrCRcfg
  · exact .inl (h.keepsOn hcfg hon)
  · obtain ⟨hoff, hm⟩ := not_or.1 hon
    obtain ⟨hc, hpow⟩ := hwill.resolve_left hoff
    rw [htodo] at hpow
    have hw : m.writes = [] ∧ powered false rest = true := by
      cases m <;> simp_all [MicroOp.writes, powered]
    exact .inr ⟨h.keepsClean hc hw.1, hw.2⟩

/-! ## A poll fails only while the engine has a step -/

theorem engineEnabled_of_txe_or_bsy {s : State} (hon : seOn s = true) (h : s.txe = false ∨ s.bsy = true) :
    engineEnabled s = true := by
  cases hb : s.bsy <;> simp_all [engineEnabled, loadEnabled, doneEnabled]

theorem Inv.engineEnabled_of_spin {f : Flag} {b : Bool} {rest : List MicroOp} {s : State} (hinv : Inv s)
    (htodo : s.todo = .poll f b :: rest) (hwill : willFinish s = true) (hflag : flagOf f (srImage s) ≠ b) :
    engineEnabled s = true := by
  obtain ⟨p, hp, halong⟩ := hinv.inPhase
  obtain ⟨q, hq, -⟩ := Phase.along_cons (htodo ▸ halong)
  have hmoves : s.txe = false ∨ s.bsy = true := by
    by_contra hquiet
    obtain ⟨htxe, hb⟩ : s.txe = true ∧ s.bsy = false := by simpa using hquiet
    cases p <;> cases f <;> cases b <;> simp [Phase.after] at hq <;>
      simp_all [Phase.holds, cleanFlags, sendingFlags]
  rcases willFinish_iff.1 hwill with hon | ⟨hc, -⟩
  · exact engineEnabled_of_txe_or_bsy hon hmoves
  · simp_all [cleanFlags_iff.1 hc]

/-! ## Every operation ends -/

/-- In a state that meets the invariant the head of `todo` is performed as soon as it has nothing to wait for. -/
theorem Inv.exists_performs {m : MicroOp} {rest : List MicroOp} {s : State} (hinv : Inv s) (htodo : s.todo = m :: rest)
    (hpass : Passes m s) : ∃ u, Performs m s u := by
  cases m
  case poll f b => exact ⟨_, hpass f b rfl, rfl⟩
  all_goals
    cases hm : perform _ s with
    | next u => exact ⟨u, hm⟩
    | fault e => exact absurd hm (perform_never_faults _ _ _)
    | refused e => exact absurd hm (hinv.perform_not_refused htodo)

theorem Performs.slave_of_none {m : MicroOp} {s u : State} (h : Performs m s u) (hslave : s.slave = none) :
    u.slave = none := by
  cases m with
  | poll f b => obtain ⟨-, rfl⟩ := h; exact hslave
  | wrDRb v => obtain ⟨-, rfl⟩ := wrDR_eq_next.1 h; exact hslave
  | wrCRcfg => obtain ⟨-, -, rfl⟩ := wrCR_eq_next.1 h; exact hslave
  | cs level => cases h; simp [hslave]
  | _ => cases h; exact hslave

/-- While the head of `todo` waits for its turn: the state is good, and since `s₀` only words in flight have been put on
the bus. -/
structure Awaiting (s₀ : State) (i : Instr) (todo : List MicroOp) (s : State) : Prop where
  inv : Inv s
  powered : willFinish s = true
  noSlave : s.slave = none
  noReset : s.rstAfter = []
  op : s.op = some i
  todo : s.todo = todo
  events : ∃ ev, s.hist = s₀.hist ++ ev ∧ histMarks ev = [] ∧
    busMarks ev ++ (inFlight s).map BusMark.sent = (inFlight s₀).map BusMark.sent

theorem Awaiting.engine {s₀ s : State} {i : Instr} {todo : List MicroOp} (h : Awaiting s₀ i todo s)
    (hen : engineEnabled s = true) : ∃ u, engineStep s = .next u ∧ Awaiting s₀ i todo u := by
  obtain ⟨u, hu⟩ : ∃ u, engineStep s = .next u := by
    cases hstep : engineStep s with
    | next u => exact ⟨u, rfl⟩
    | fault e => exact absurd hstep (engineStep_never_faults s e)
    | refused e =>
      obtain ⟨⟨sl, hsl⟩, -⟩ := engineStep_refuses hstep
      simp [h.noSlave] at hsl
  obtain ⟨ev, hhist, -, hflight, -, hmarks, hbus, htodo, hop⟩ := engineStep_events hen hu
  obtain ⟨ev₀, hhist₀, hmarks₀, hbus₀⟩ := h.events
  have hkeeps : u.slave = none ∧ u.rstAfter = s.rstAfter := by
    rcases engineStep_cases hu with ⟨-, rfl⟩ | ⟨-, j, sl, hx, rfl⟩
    · exact ⟨h.noSlave, rfl⟩
    · rw [misoExchange_of_none h.noSlave] at hx
      cases hx
      simp
  refine ⟨u, hu, h.inv.engineStep hen hu, ?_, hkeeps.1, hkeeps.2.trans h.noReset, hop.trans h.op, htodo.trans h.todo,
    ev₀ ++ ev, ?_, ?_, ?_⟩
  · exact willFinish_iff.2 (.inl ((seOn_engineStep hu).trans (seOn_of_engineEnabled hen)))
  · rw [hhist, hhist₀, List.append_assoc]
  · rw [histMarks_append, hmarks₀, hmarks, List.append_nil]
  · rw [busMarks_append, hbus, List.append_assoc, ← List.map_append, hflight, hbus₀]

theorem Awaiting.spin {s₀ s : State} {i : Instr} {f : Flag} {b : Bool} {rest : List MicroOp}
    (h : Awaiting s₀ i (.poll f b :: rest) s) (hflag : flagOf f (srImage s) ≠ b) :
    engineEnabled s = true ∧ Awaiting s₀ i (.poll f b :: rest) (rdSR (.failed f b) s).2 := by
  have hen := h.inv.engineEnabled_of_spin h.todo h.powered hflag
  obtain ⟨ev, hhist, hmarks, hbus⟩ := h.events
  refine ⟨hen, h.inv.spin h.todo, ?_, h.noSlave, h.noReset, h.op, h.todo,
    ev ++ [.rsr (srImage s) (.failed f b)], ?_, ?_, ?_⟩
  · exact willFinish_iff.2 (.inl ((seOn_congr rfl rfl).trans (seOn_of_engineEnabled hen)))
  · rw [rdSR_hist, hhist, List.append_assoc]
  · rw [histMarks_append, hmarks]; rfl
  · have hnone : busMarks [.rsr (srImage s) (.failed f b)] = [] := rfl
    rw [busMarks_append, hnone, List.append_nil]
    exact hbus

/-- Every operation comes to its end: by induction on what is left of its expansion, whose head is performed in the end
and leaves its marks. -/
theorem leads_to_end {i : Instr} (todo : List MicroOp) : ∀ {s : State}, s.todo = todo → s.op = some i →
    Inv (finish s) → willFinish s = true → s.slave = none → s.rstAfter = [] →
    ∃ t ev, Leads (finish s) (finish t) ∧ t.todo = [] ∧ t.op = some i ∧ t.hist = s.hist ++ ev ∧
      cleanFlags t = true ∧ histMarks ev = todoMarks todo ∧
      busMarks ev = (inFlight s).map BusMark.sent ++ todoBusMarks todo := by
  induction todo with
  | nil =>
    intro s htodo hop hinv hwill hslave hrst
    have hc : cleanFlags s = true := by simpa using hinv.cleanFlags_of_idle (by simpa using htodo)
    obtain ⟨htxe, -, hb, -⟩ := cleanFlags_iff.1 hc
    exact ⟨s, [], Leads.refl _, htodo, hop, by simp, hc, rfl, by simp [inFlight, htxe, hb]; rfl⟩
  | cons m rest ih =>
    intro s htodo hop hinv hwill hslave hrst
    have hbusy : s.todo ≠ [] := by simp [htodo]
    rw [finish_of_busy hbusy] at hinv ⊢
    have hs : Awaiting s i (m :: rest) s := ⟨hinv, hwill, hslave, hrst, hop, htodo, [], by simp, rfl, by simp [busMarks]⟩
    obtain ⟨t, ht, hpass, hleads⟩ := leads_to_performed (J := Awaiting s i (m :: rest))
      (fun _ h => ⟨h.todo, h.noReset⟩)
      (fun u w h => ⟨h.inv.around u.hostPort u.txStream u.rstAfter w, h.powered, h.noSlave, h.noReset, h.op, h.todo,
        h.events⟩)
      (fun _ h => h.engine) (fun _ f b h hm hflag => by subst hm; exact h.spin hflag) hs
    obtain ⟨u, hu⟩ := ht.inv.exists_performs ht.todo hpass
    obtain ⟨ev, hhist, hmarks, hbus⟩ := ht.events
    have hcfg : cfgOrder t.busClkEn t.cfgDone (m :: rest) = true := ht.todo ▸ ht.inv.cfgInOrder
    have hslave' := hu.slave_of_none ht.noSlave
    obtain ⟨w, ev', hw, hwtodo, hwop, hwhist, hwc, hwmarks, hwbus⟩ := ih (s := { u with todo := rest }) rfl
      (hu.op.trans ht.op) (ht.inv.advance ht.todo hu) (hu.keepsWillFinish ht.todo hcfg ht.powered) hslave'
      (hu.frame.2.2.2.1.trans ht.noReset)
    refine ⟨w, ev ++ m.events t ++ ev', (hleads u hu).trans hw, hwtodo, hwop, ?_, hwc, ?_, ?_⟩
    · rw [hwhist]
      show u.hist ++ ev' = _
      rw [hu.hist, hhist]
      simp only [List.append_assoc]
    · rw [histMarks_append, histMarks_append, hmarks, hwmarks, histMarks_events, todoMarks_cons m rest,
        List.nil_append]
    · have hcomm := busMarks_events_comm ht.inv ht.todo
      have hflight : inFlight { u with todo := rest } = inFlight t ++ m.writes := hu.inFlight
      rw [busMarks_append, busMarks_append, hwbus, hflight, todoBusMarks_cons m rest, todoBusMarks_singleton m t,
        List.map_append, ← hbus]
      simp only [List.append_assoc]
      rw [← List.append_assoc (busMarks (m.events t)), hcomm, List.append_assoc]

/-- Settles O47: the acceptance of a ready state gives a state from which the expansion is led to its end. -/
theorem everyOperationEnds : Obligations.EveryOperationEnds := by
  intro i s hready hslave henc hcfg hpow
  obtain ⟨hinv, hidle, hrst⟩ := hready
  have hc := hinv.cleanFlags_of_idle hidle
  have hwill : willFinish (latch i (expansion i) s) = true := by
    have hon : seOn (latch i (expansion i) s) = seOn s := rfl
    rw [willFinish_iff, hon]
    cases hs : seOn s
    · exact .inr ⟨hc, hs ▸ hpow⟩
    · exact .inl rfl
  obtain ⟨t, ev, hleads, htodo, hop, hhist, htc, hmarks, hbus⟩ :=
    leads_to_end (i := i) (expansion i) (s := latch i (expansion i) s) rfl rfl (hinv.accept hidle hcfg) hwill hslave hrst
  have hflight : inFlight (latch i (expansion i) s) = [] := by
    obtain ⟨htxe, -, hb, -⟩ := cleanFlags_iff.1 hc
    simp [inFlight, htxe, hb]
  rw [hflight] at hbus
  exact Completes.of_leads hidle henc hcfg hleads htodo hop hhist ⟨by simpa using htc, hmarks, hbus⟩

/-! ## A transfer before the configuration hangs -/

/-- Every expansion but those of the configuring operations leaves the configuration alone. -/
theorem plain_expansion {i : Instr} (h : configures i = false) : ∀ m ∈ expansion i, m ≠ .extBusEn ∧ m ≠ .wrCRcfg := by
  cases i with
  | configureBus => simp [configures] at h
  | initDevice => simp [configures] at h
  | selectDevice => simp [expansion, xSelectDevice]
  | deselectDevice => simp [expansion, xDeselectDevice]
  | transmit bs => exact plain_transmit bs
  | receive n => exact plain_receive n.toNat
  | readRegisters a n => exact plain_read a n.toNat
  | writeRegister a v => exact plain_write a v
  | encRead a => nofun
  | encWrite a => nofun
  | writeFrame a v => exact plain_write a v
  | readFrame a n => exact plain_read a n.toNat

/-- With the engine off an operation is on its way to its first DR write, or it waits behind it at a poll that no engine
step will satisfy. -/
structure Hanging (i : Instr) (sent : List Byte) (s : State) : Prop where
  off : seOn s = false
  noReset : s.rstAfter = []
  op : s.op = some i
  nothingSent : sentBytes s.hist = sent
  plain : ∀ m ∈ s.todo, m ≠ .extBusEn ∧ m ≠ .wrCRcfg
  waits : (cleanFlags s = true ∧ powered false s.todo = false ∧ Phase.along .clean s.todo = some .clean) ∨
    (s.txe = false ∧ s.rxne = false ∧ ∃ f rest, (f = .txe ∨ f = .rxne) ∧ s.todo = .poll f true :: rest)

theorem Hanging.busy {i : Instr} {sent : List Byte} {s : State} (h : Hanging i sent s) : s.todo ≠ [] := by
  rcases h.waits with ⟨-, hpow, -⟩ | ⟨-, -, _, _, -, htodo⟩
  · intro hidle
    simp [hidle, powered] at hpow
  · simp [htodo]

/-- Behind the first write every expansion polls for what only the engine can bring (41_transport.md R107, R108). -/
theorem poll_behind_write {rest : List MicroOp} (h : Phase.along .oneWord rest = some .clean) :
    ∃ f rest', (f = .txe ∨ f = .rxne) ∧ rest = .poll f true :: rest' := by
  cases rest with
  | nil => simp [Phase.along] at h
  | cons m rest =>
    obtain ⟨q, hq, -⟩ := Phase.along_cons h
    unfold Phase.after at hq
    split at hq <;> simp_all

/-- Only a DR write leaves the clean phase. -/
theorem clean_of_no_write {m : MicroOp} {q : Phase} (hw : m.writes = []) (hq : Phase.after .clean m = some q) :
    q = .clean := by
  unfold Phase.after at hq
  split at hq <;> simp_all [MicroOp.writes]

/-- In the clean phase nothing is waited for. -/
theorem exists_performs_of_clean {m : MicroOp} {q : Phase} {s : State} (hc : cleanFlags s = true)
    (hq : Phase.after .clean m = some q) (hm : m ≠ .wrCRcfg) : ∃ u, Performs m s u := by
  obtain ⟨htxe, -, hb, -⟩ := cleanFlags_iff.1 hc
  cases m with
  | wrCRcfg => exact absurd rfl hm
  | wrDRb v => exact ⟨_, wrDR_eq_next.2 ⟨htxe, rfl⟩⟩
  | poll f b =>
    refine ⟨_, ?_, rfl⟩
    cases f <;> cases b <;> simp_all [Phase.after]
  | _ => exact ⟨_, rfl⟩

theorem Performs.keepsOff {m : MicroOp} {s u : State} (h : Performs m s u) (hm : m ≠ .extBusEn ∧ m ≠ .wrCRcfg) :
    seOn u = seOn s := by
  cases m with
  | extBusEn => exact absurd rfl hm.1
  | wrCRcfg => exact absurd rfl hm.2
  | poll f b => obtain ⟨-, rfl⟩ := h; rfl
  | wrDRb v => obtain ⟨-, rfl⟩ := wrDR_eq_next.1 h; rfl
  | _ => cases h; rfl

/-- The step of a hanging operation: the engine has none, and the sequencer goes on or spins. -/
theorem Hanging.step {i : Instr} {sent : List Byte} {s : State} (h : Hanging i sent s) :
    ∃ t, step s = .next t ∧ Hanging i sent t := by
  have hen := engineEnabled_of_seOn_false h.off
  rcases h.waits with ⟨hc, hpow, halong⟩ | ⟨htxe, hrxne, f, rest, hf, htodo⟩
  · obtain ⟨m, rest, htodo⟩ := List.exists_cons_of_ne_nil h.busy
    rw [htodo] at hpow halong
    have hplain := h.plain
    rw [htodo] at hplain
    obtain ⟨hm, hplain⟩ := List.forall_mem_cons.1 hplain
    obtain ⟨q, hq, halong⟩ := Phase.along_cons halong
    obtain ⟨u, hu⟩ := exists_performs_of_clean hc hq hm.2
    have hsent : sentBytes u.hist = sent := by
      rw [hu.hist, sentBytes_append, sentBytes_events, List.append_nil, h.nothingSent]
    have hwaits : (cleanFlags u = true ∧ powered false rest = false ∧ Phase.along .clean rest = some .clean) ∨
        (u.txe = false ∧ u.rxne = false ∧ ∃ f rest', (f = .txe ∨ f = .rxne) ∧ rest = .poll f true :: rest') := by
      cases hw : m.writes with
      | nil =>
        obtain rfl := clean_of_no_write hw hq
        have hpow' : powered false rest = false := by
          cases m <;> simp_all [MicroOp.writes, powered]
        exact .inl ⟨hu.keepsClean hc hw, hpow', halong⟩
      | cons v vs =>
        cases m <;> simp [MicroOp.writes] at hw
        cases hq
        obtain ⟨-, hrxne, -⟩ := cleanFlags_iff.1 hc
        obtain ⟨-, rfl⟩ := wrDR_eq_next.1 hu
        exact .inr ⟨rfl, hrxne, poll_behind_write halong⟩
    have hnext : Hanging i sent { u with todo := rest } :=
      ⟨(hu.keepsOff hm).trans h.off, hu.frame.2.2.2.1.trans h.noReset, hu.op.trans h.op, hsent, hplain, hwaits⟩
    refine ⟨_, step_of_quiet_of_performs h.noReset hen htodo hu, ?_⟩
    rwa [finish_of_busy hnext.busy]
  · have hflag : flagOf f (srImage s) ≠ true := by
      rcases hf with rfl | rfl <;> simp [htxe, hrxne]
    refine ⟨(rdSR (.failed f true) s).2, ?_, h.off, h.noReset, h.op, ?_, h.plain, .inr ⟨htxe, hrxne, f, rest, hf, htodo⟩⟩
    · rw [step_of_quiet h.noReset hen, sequencerTurn_of_busy h.busy, seqStep_of_spin htodo hflag]
    · have hnone : sentBytes [.rsr (srImage s) (.failed f true)] = [] := rfl
      rw [rdSR_hist, sentBytes_append, hnone, List.append_nil, h.nothingSent]

theorem Hanging.run {i : Instr} {sent : List Byte} (k : Nat) : ∀ {s : State}, Hanging i sent s →
    ∃ t, Sys2Proof.core.run k s = .next t ∧ Hanging i sent t := by
  induction k with
  | zero => exact fun {s} h => ⟨s, rfl, h⟩
  | succ k ih =>
    intro s h
    obtain ⟨u, hu, hu'⟩ := h.step
    obtain ⟨t, ht, ht'⟩ := ih hu'
    exact ⟨t, run_succ_of_step hu ht, ht'⟩

/-- Settles O48: the accepted operation hangs, and every step keeps it so. -/
theorem transferBeforeConfigurationHangs : Obligations.TransferBeforeConfigurationHangs := by
  intro i s hready hoff henc hcfg hpow
  obtain ⟨hinv, hidle, hrst⟩ := hready
  have hne : expansion i ≠ [] := fun h => by simp [h, powered] at hpow
  have hsent : sentBytes (s.hist ++ [.accept i]) = sentBytes s.hist := by
    rw [sentBytes_append]
    exact List.append_nil _
  refine ⟨_, exec_of_idle_of_ne_nil hidle henc (by simp [hcfg]) hne, fun k => ?_⟩
  have hhang : Hanging i (sentBytes s.hist) { s with
      op := some i, rxout := [], todo := expansion i, hist := s.hist ++ [.accept i] } :=
    ⟨hoff, hrst, rfl, hsent, plain_expansion hcfg,
      .inl ⟨hinv.cleanFlags_of_idle hidle, hpow, along_expansion i⟩⟩
  obtain ⟨t, ht, ht'⟩ := hhang.run k
  exact ⟨t, ht, ht'.busy, ht'.op, ht'.nothingSent⟩

/-! ## The operations that send nothing -/

/-- Settles O49: with clean flags the engine has no step, so the two micro-operations follow each other. -/
theorem configureBusRuns : Obligations.ConfigureBusRuns := by
  intro s hidle hc hrst hd
  have hen := engineEnabled_of_cleanFlags hc
  refine ⟨_, configureBusIsAccepted s hidle hd, ?_⟩
  have hfirst := step_of_quiet_of_performs (m := .extBusEn) (rest := [.wrCRcfg]) (s := { s with
    op := some .configureBus, rxout := [], todo := [.extBusEn, .wrCRcfg], hist := s.hist ++ [.accept .configureBus] })
    hrst hen rfl rfl
  have hsecond := step_of_quiet_of_performs (m := .wrCRcfg) (rest := []) (s := { s with
    busClkEn := true, op := some .configureBus, rxout := [], todo := [.wrCRcfg]
    hist := s.hist ++ [.accept .configureBus] ++ [.extBusEn] })
    hrst (engineEnabled_of_cleanFlags hc) rfl (wrCR_eq_next.2 ⟨rfl, hd, rfl⟩)
  refine run_succ_of_step hfirst (run_one_of_step (hsecond.trans ?_))
  simp [finish, State.emit, hidle, Config.crCfg]

/-- The acceptance of a move of the line, and the one step after it. -/
theorem cs_runs {i : Instr} {level : Bool} {s : State} (hexp : expansion i = [.cs level]) (henc : encoderResult i = none)
    (hcfg : configures i = false) (hidle : s.todo = []) (hc : cleanFlags s = true) (hrst : s.rstAfter = []) :
    ∃ u, exec i s = .next u ∧ Sys2Proof.core.run 1 u = .next { driveCs level s with
      op := none, rxout := []
      hist := s.hist ++ [.accept i, if level then .csDeassert else .csAssert, .done i []] } := by
  refine ⟨_, exec_of_idle_of_ne_nil hidle henc (by simp [hcfg]) (by simp [hexp]), ?_⟩
  have hstep := step_of_quiet_of_performs (m := .cs level) (rest := []) (s := { s with
    op := some i, rxout := [], todo := expansion i, hist := s.hist ++ [.accept i] })
    hrst (engineEnabled_of_cleanFlags hc) hexp rfl
  refine run_one_of_step (hstep.trans ?_)
  simp [finish, driveCs, State.emit, hidle]

/-- Settles O50: both are a move of the line. -/
theorem selectAndDeselectRun : Obligations.SelectAndDeselectRun :=
  fun _ hidle hc hrst => ⟨cs_runs (i := .selectDevice) rfl rfl rfl hidle hc hrst,
    cs_runs (i := .deselectDevice) rfl rfl rfl hidle hc hrst⟩

end Sys2Proof.Machine
end

section
/-! PROOFS. The transfers with the engine on, in every schedule (41_transport.md R107, R108, R110, R111): what is known
between two micro-operations while words are under way, and the runs of TRANSMIT, RECEIVE and a move of the line. -/

namespace Sys2Proof.Machine

/-! ## The other side of the wire -/

/-- What the words exchanged so far, each with the byte received for it, say of the slave, where one is plugged in. -/
abbrev Protocol := List (Byte × Byte) → Option Slave → Prop

/-- The other side takes the words `ws` one after the other, refusing none, and keeps to the protocol. -/
def Serves (W : Protocol) (ws : List Byte) : Prop :=
  ∀ xs o s, xs.map Prod.fst ++ [o] <+: ws → W xs s.slave →
    ∃ i sl, misoExchange o s = .next (i, sl) ∧ W (xs ++ [(o, i)]) sl

/-- With no slave plugged in any words are taken (20_memory.md R61). -/
def noSlave : Protocol := fun _ sl => sl = none

theorem serves_noSlave (ws : List Byte) : Serves noSlave ws :=
  fun _ _ _ _ hs => ⟨_, _, misoExchange_of_none hs, rfl⟩

/-- The event of a word transfer: the word sent and the word received. -/
def wordEvent (x : Byte × Byte) : Event := .xfer x.1 x.2

/-- The events of SE-DONE: the word is on the bus, and nothing is in the register trace (10_state.md R23). -/
theorem busTrace_word (o i v : Byte) (txe : Bool) :
    busTrace (.xfer o i :: bif txe then [] else [.start v]) = [wordEvent (o, i)] := by
  cases txe <;> rfl

theorem registerTrace_word (o i v : Byte) (txe : Bool) :
    registerTrace (.xfer o i :: bif txe then [] else [.start v]) = [] := by
  cases txe <;> rfl

/-! ## What is known between two micro-operations -/

/-- The history has grown from `s` to `t` by events with these two traces. -/
def Emits (s t : State) (reg : List RegEvent) (bus : List Event) : Prop :=
  ∃ ev, t.hist = s.hist ++ ev ∧ registerTrace ev = reg ∧ busTrace ev = bus

theorem Emits.refl {s t : State} (h : t.hist = s.hist) : Emits s t [] [] := ⟨[], by simp [h], rfl, rfl⟩

theorem Emits.append {s t u : State} {reg : List RegEvent} {bus ev : List Event} (h : Emits s t reg bus)
    (hu : u.hist = t.hist ++ ev) : Emits s u (reg ++ registerTrace ev) (bus ++ busTrace ev) := by
  obtain ⟨ev₀, hev₀, hreg, hbus⟩ := h
  exact ⟨ev₀ ++ ev, by rw [hu, hev₀, List.append_assoc], by rw [registerTrace_append, hreg],
    by rw [busTrace_append, hbus]⟩

theorem Emits.trans {s t u : State} {reg reg' : List RegEvent} {bus bus' : List Event} (h : Emits s t reg bus)
    (h' : Emits t u reg' bus') : Emits s u (reg ++ reg') (bus ++ bus') := by
  obtain ⟨ev, hev, rfl, rfl⟩ := h'
  exact h.append hev

/-- What no transfer changes: the operation, the configuration, and that no reset is on its way. -/
structure SameConfig (s t : State) : Prop where
  op : t.op = s.op
  rstAfter : t.rstAfter = s.rstAfter
  cr : t.cr = s.cr
  busClkEn : t.busClkEn = s.busClkEn
  pinsCfg : t.pinsCfg = s.pinsCfg
  cfgDone : t.cfgDone = s.cfgDone

theorem SameConfig.refl (s : State) : SameConfig s s := ⟨rfl, rfl, rfl, rfl, rfl, rfl⟩

theorem SameConfig.trans {s t u : State} (h : SameConfig s t) (h' : SameConfig t u) : SameConfig s u :=
  ⟨h'.op.trans h.op, h'.rstAfter.trans h.rstAfter, h'.cr.trans h.cr, h'.busClkEn.trans h.busClkEn,
    h'.pinsCfg.trans h.pinsCfg, h'.cfgDone.trans h.cfgDone⟩

theorem SameConfig.seOn {s t : State} (h : SameConfig s t) : seOn t = seOn s := seOn_congr h.busClkEn h.cr

/-- While the words `ws` have been written since the clean state `b` and nothing has been read: `xs` are exchanged and
the others in flight, and the flags count the exchanged ones (R110). -/
structure Sending (W : Protocol) (b : State) (ws : List Byte) (reg : List RegEvent) (xs : List (Byte × Byte))
    (s : State) : Prop where
  config : SameConfig b s
  csN : s.csN = b.csN
  rxout : s.rxout = b.rxout
  arm : s.ovrArm = false
  words : xs.map Prod.fst ++ inFlight s = ws
  served : W xs s.slave
  unread : s.rxne = !xs.isEmpty
  overrun : s.ovr = decide (2 ≤ xs.length)
  received : ∀ x, xs = [x] → s.rxbuf = x.2
  emits : Emits b s reg (xs.map wordEvent)

theorem Sending.start {W : Protocol} {b : State} (hc : cleanFlags b = true) (hW : W [] b.slave) :
    Sending W b [] [] [] b := by
  obtain ⟨htxe, hrxne, hb, hovr, harm⟩ := cleanFlags_iff.1 hc
  exact ⟨.refl b, rfl, rfl, harm, by simp [inFlight, htxe, hb], hW, hrxne, hovr, nofun, .refl rfl⟩

section
variable {W : Protocol} {b s : State} {ws : List Byte} {reg : List RegEvent} {xs : List (Byte × Byte)}

/-- What is known speaks neither of `todo` nor of the engine's patience. -/
theorem Sending.around (h : Sending W b ws reg xs s) (todo : List MicroOp) (waited : Nat) :
    Sending W b ws reg xs { s with todo := todo, waited := waited } :=
  ⟨h.config.trans ⟨rfl, rfl, rfl, rfl, rfl, rfl⟩, h.csN, h.rxout, h.arm, h.words, h.served, h.unread, h.overrun,
    h.received, h.emits⟩

theorem Sending.load (h : Sending W b ws reg xs s) (htxe : s.txe = false) (hb : s.bsy = false) :
    Sending W b ws reg xs (engineMoved (seLoad s)) := by
  have hemits := h.emits.append (u := engineMoved (seLoad s)) rfl
  have hstart : registerTrace [.start s.txbuf] = [] ∧ busTrace [.start s.txbuf] = [] := ⟨rfl, rfl⟩
  rw [hstart.1, hstart.2, List.append_nil, List.append_nil] at hemits
  have hwords := h.words
  simp only [inFlight, htxe, hb] at hwords
  exact ⟨h.config.trans ⟨rfl, rfl, rfl, rfl, rfl, rfl⟩, h.csN, h.rxout, h.arm, hwords, h.served, h.unread, h.overrun, h.received, hemits⟩

/-- The engine exchanges the first word in flight: it is counted, and the next one is taken without a gap (R92). -/
theorem Sending.exchange (h : Sending W b ws reg xs s) (hb : s.bsy = true) {i x : Byte} {sl : Option Slave}
    (hW : W (xs ++ [(s.shout, i)]) sl) :
    Sending W b ws reg (xs ++ [(s.shout, i)]) (engineMoved (seDone i x { s with slave := sl })) := by
  obtain ⟨hcfg, hcs, hrx, harm, hwords, -, hunread, hover, -, hemits⟩ := h
  have hsame : SameConfig s (engineMoved (seDone i x { s with slave := sl })) := by constructor <;> simp
  refine ⟨hcfg.trans hsame, ?_, ?_, ?_, ?_, ?_, ?_, ?_, ?_, ?_⟩
  · simpa using hcs
  · simpa using hrx
  · simpa using harm
  · rw [← hwords]
    cases htxe : s.txe <;> simp [inFlight, hb, htxe]
  · simpa using hW
  · simp
  · rcases xs with _ | ⟨y, _ | ⟨z, zs⟩⟩ <;> simp_all
  · intro y hy
    obtain rfl : xs = [] := by simpa using congrArg List.length hy
    cases hy
    simp [hunread]
  · have happ := hemits.append (u := engineMoved (seDone i x { s with slave := sl })) (seDone_hist i x _)
    rw [registerTrace_word, busTrace_word, List.append_nil] at happ
    simpa using happ

/-- Every engine step keeps what is known, and takes no room from TXBUF. -/
theorem Sending.engine {full : List Byte} (h : Sending W b ws reg xs s) (hserves : Serves W full) (hfull : ws <+: full)
    (hen : engineEnabled s = true) :
    ∃ u xs', engineStep s = .next u ∧ Sending W b ws reg xs' u ∧ u.todo = s.todo ∧ (s.txe = true → u.txe = true) := by
  cases hb : s.bsy with
  | false =>
    have htxe := txe_false_of_engineEnabled hen hb
    exact ⟨_, xs, by simp [engineStep, hb], h.load htxe hb, rfl, fun _ => rfl⟩
  | true =>
    have hnext : xs.map Prod.fst ++ [s.shout] <+: full := by
      refine List.IsPrefix.trans ?_ hfull
      rw [← h.words, inFlight, hb, cond_true, ← List.append_assoc]
      exact List.prefix_append _ _
    obtain ⟨i, sl, hx, hW⟩ := hserves xs s.shout s hnext h.served
    exact ⟨_, _, engineStep_of_bsy hb hx, h.exchange hb hW, by simp, fun _ => by simp⟩

/-- A micro-operation that touches neither the engine's fields nor what is known beside the history. -/
theorem Sending.read {use : SrUse} (h : Sending W b ws reg xs s) :
    Sending W b ws (reg ++ registerTrace [.rsr (srImage s) use]) xs (rdSR use s).2 := by
  have hemits := h.emits.append (u := (rdSR use s).2) rfl
  have hbus : busTrace [.rsr (srImage s) use] = [] := rfl
  rw [hbus, List.append_nil] at hemits
  have hovr : (rdSR use s).2.ovr = s.ovr := by simp [h.arm]
  exact ⟨h.config.trans ⟨rfl, rfl, rfl, rfl, rfl, rfl⟩, h.csN, h.rxout, rfl, h.words, h.served, h.unread, hovr.trans h.overrun, h.received, hemits⟩

theorem Sending.write {v : Byte} {u : State} (h : Sending W b ws reg xs s) (hu : wrDR v s = .next u) :
    Sending W b (ws ++ [v]) (reg ++ [.wdr v]) xs u := by
  obtain ⟨htxe, rfl⟩ := wrDR_eq_next.1 hu
  have hemits := h.emits.append (u := State.emit { s with txbuf := v, txe := false } (.wdr v)) rfl
  have hwdr : registerTrace [.wdr v] = [.wdr v] ∧ busTrace [.wdr v] = [] := ⟨rfl, rfl⟩
  rw [hwdr.1, hwdr.2, List.append_nil] at hemits
  have hflight := Performs.inFlight (m := .wrDRb v) hu
  refine ⟨h.config.trans ⟨rfl, rfl, rfl, rfl, rfl, rfl⟩, h.csN, h.rxout, h.arm, ?_, h.served, h.unread, h.overrun, h.received, hemits⟩
  rw [hflight, ← List.append_assoc, h.words]
  rfl

/-- The same, reached from `b`, with the micro-operations `todo` to do. -/
structure Reached (W : Protocol) (b : State) (ws : List Byte) (reg : List RegEvent) (todo : List MicroOp)
    (xs : List (Byte × Byte)) (s : State) : Prop where
  sending : Sending W b ws reg xs s
  leads : Leads (finish b) (finish s)
  todo : s.todo = todo

/-- While the head of `todo` waits for its turn: what is known, and that the room there was in TXBUF is still there. -/
structure Waiting (W : Protocol) (b : State) (ws : List Byte) (reg : List RegEvent) (todo : List MicroOp) (room : Bool)
    (s : State) : Prop where
  sending : ∃ xs, Sending W b ws reg xs s
  todo : s.todo = todo
  room : room = true → s.txe = true

/-- The polls of a transfer: for room, for a quiet wire, and for a byte where a word has been written (R102). -/
def Answered (ws : List Byte) (f : Flag) (v : Bool) : Prop :=
  (f = .txe ∧ v = true) ∨ (f = .bsy ∧ v = false) ∨ (f = .rxne ∧ v = true ∧ ws ≠ [])

/-- Such a poll fails only while a word is in flight. -/
theorem Sending.engineEnabled_of_spin {f : Flag} {v : Bool} (h : Sending W b ws reg xs s) (hon : seOn b = true)
    (hf : Answered ws f v) (hflag : flagOf f (srImage s) ≠ v) : engineEnabled s = true := by
  refine engineEnabled_of_txe_or_bsy (h.config.seOn.trans hon) ?_
  rcases hf with ⟨rfl, rfl⟩ | ⟨rfl, rfl⟩ | ⟨rfl, rfl, hne⟩
  · simp_all
  · simp_all
  · by_contra hquiet
    have hxs : xs = [] := by
      have hunread := h.unread
      simp_all
    have hwords := h.words
    simp_all [inFlight]

theorem Waiting.engine {todo : List MicroOp} {room : Bool} {full : List Byte} (h : Waiting W b ws reg todo room s)
    (hserves : Serves W full) (hfull : ws <+: full) (hen : engineEnabled s = true) :
    ∃ u, engineStep s = .next u ∧ Waiting W b ws reg todo room u := by
  obtain ⟨⟨xs, hxs⟩, htodo, hroom⟩ := h
  obtain ⟨u, xs', hu, hxs', hutodo, huroom⟩ := hxs.engine hserves hfull hen
  exact ⟨u, hu, ⟨xs', hxs'⟩, hutodo.trans htodo, fun hr => huroom (hroom hr)⟩

theorem Waiting.spin {todo : List MicroOp} {room : Bool} {f : Flag} {v : Bool} (h : Waiting W b ws reg todo room s)
    (hon : seOn b = true) (hf : Answered ws f v) (hflag : flagOf f (srImage s) ≠ v) :
    engineEnabled s = true ∧ Waiting W b ws reg todo room (rdSR (.failed f v) s).2 := by
  obtain ⟨⟨xs, hxs⟩, htodo, hroom⟩ := h
  have hread := hxs.read (use := .failed f v)
  have hnone : registerTrace [.rsr (srImage s) (.failed f v)] = [] := rfl
  rw [hnone, List.append_nil] at hread
  exact ⟨hxs.engineEnabled_of_spin hon hf hflag, ⟨xs, hread⟩, htodo, hroom⟩

/-- The head of `todo` is performed in every schedule while words are under way. -/
theorem Reached.next {m : MicroOp} {rest : List MicroOp} {full : List Byte} (h : Reached W b ws reg (m :: rest) xs s)
    (hon : seOn b = true) (hrst : b.rstAfter = []) (hserves : Serves W full) (hfull : ws <+: full)
    (hpoll : ∀ f v, m = .poll f v → Answered ws f v) :
    ∃ t xs', Sending W b ws reg xs' t ∧ Passes m t ∧ (s.txe = true → t.txe = true) ∧
      ∀ u, Performs m t u → Leads (finish b) (finish { u with todo := rest }) := by
  have hs : Waiting W b ws reg (m :: rest) s.txe s := ⟨⟨xs, h.sending⟩, h.todo, id⟩
  have hbusy : s.todo ≠ [] := by simp [h.todo]
  have hleads : Leads (finish b) s := finish_of_busy hbusy ▸ h.leads
  obtain ⟨t, ht, hpass, hperf⟩ := leads_to_performed (J := Waiting W b ws reg (m :: rest) s.txe)
    (fun _ ⟨⟨_, hys⟩, htodo, _⟩ => ⟨htodo, hys.config.rstAfter.trans hrst⟩)
    (fun u w ⟨⟨ys, hys⟩, htodo, hroom⟩ => ⟨⟨ys, hys.around u.todo w⟩, htodo, hroom⟩)
    (fun _ h hen => h.engine hserves hfull hen) (fun _ f v h hm hflag => h.spin hon (hpoll f v hm) hflag) hs
  obtain ⟨xs', hxs'⟩ := ht.sending
  exact ⟨t, xs', hxs', hpass, ht.room, fun u hu => hleads.trans (hperf u hu)⟩

/-- A poll passes in the end, and the flag it has seen is there. -/
theorem Reached.poll {f : Flag} {v : Bool} {rest : List MicroOp} {full : List Byte}
    (h : Reached W b ws reg (.poll f v :: rest) xs s) (hon : seOn b = true) (hrst : b.rstAfter = [])
    (hserves : Serves W full) (hfull : ws <+: full) (hf : Answered ws f v) :
    ∃ t xs', Reached W b ws (reg ++ [.polled f v]) rest xs' t ∧ flagOf f (srImage t) = v ∧
      (s.txe = true → t.txe = true) := by
  have hpoll : ∀ f' v', MicroOp.poll f v = .poll f' v' → Answered ws f' v' := by
    rintro _ _ ⟨⟩
    exact hf
  obtain ⟨t, xs', ht, hpass, hroom, hleads⟩ := h.next hon hrst hserves hfull hpoll
  have hflag := hpass f v rfl
  have hread := ht.read (use := .passed f v)
  refine ⟨{ (rdSR (.passed f v) t).2 with todo := rest }, xs', ⟨hread.around rest _, hleads _ ⟨hflag, rfl⟩, rfl⟩, ?_,
    hroom⟩
  simpa using hflag

/-- A byte is written while there is room for it. -/
theorem Reached.write {v : Byte} {rest : List MicroOp} {full : List Byte} (h : Reached W b ws reg (.wrDRb v :: rest) xs s)
    (hon : seOn b = true) (hrst : b.rstAfter = []) (hserves : Serves W full) (hfull : ws <+: full)
    (hroom : s.txe = true) : ∃ t xs', Reached W b (ws ++ [v]) (reg ++ [.wdr v]) rest xs' t := by
  obtain ⟨t, xs', ht, -, htroom, hleads⟩ := h.next hon hrst hserves hfull nofun
  obtain ⟨u, hu⟩ : ∃ u, wrDR v t = .next u := ⟨_, wrDR_eq_next.2 ⟨htroom hroom, rfl⟩⟩
  exact ⟨{ u with todo := rest }, xs', (ht.write hu).around rest u.waited, hleads u hu, rfl⟩

end

end Sys2Proof.Machine
end

section
/-! PROOFS. The runs of the transport operations and of the protocol operations made of them, with the engine on and whatever
is on the other side of the wire (41_transport.md R105 to R111, 42_protocol.md R120, R121). -/

namespace Sys2Proof.Machine

/-! ## From rest to rest -/

/-- The engine is on, no reset is on its way, and nothing is under way (10_state.md R25, R28). -/
structure AtRest (s : State) : Prop where
  on : seOn s = true
  noReset : s.rstAfter = []
  clean : cleanFlags s = true

/-- Micro-operations have been performed from `b` on, `rest` is left to do, and the flags are clean again. The two states
are compared after completion, which a last micro-operation brings with it (R109). -/
structure Transferred (b t : State) (rest : List MicroOp) (reg : List RegEvent) (bus : List Event) : Prop where
  leads : Leads (finish b) (finish t)
  todo : t.todo = rest
  emits : Emits b t reg bus
  clean : cleanFlags t = true
  config : SameConfig b t

theorem Transferred.atRest {b t : State} {rest : List MicroOp} {reg : List RegEvent} {bus : List Event}
    (h : Transferred b t rest reg bus) (hb : AtRest b) : AtRest t :=
  ⟨h.config.seOn.trans hb.on, h.config.rstAfter.trans hb.noReset, h.clean⟩

theorem Transferred.trans {b t u : State} {rest rest' : List MicroOp} {reg reg' : List RegEvent}
    {bus bus' : List Event} (h : Transferred b t rest reg bus) (h' : Transferred t u rest' reg' bus') :
    Transferred b u rest' (reg ++ reg') (bus ++ bus') :=
  ⟨h.leads.trans h'.leads, h'.todo, h.emits.trans h'.emits, h'.clean, h.config.trans h'.config⟩

/-- With the engine at rest the head of `todo` is performed at once. -/
theorem leads_of_quiet {m : MicroOp} {rest : List MicroOp} {s u : State} (hrst : s.rstAfter = [])
    (hen : engineEnabled s = false) (htodo : s.todo = m :: rest) (hm : Performs m s u) :
    Leads (finish s) (finish { u with todo := rest }) := by
  rw [finish_of_busy (s := s) (by simp [htodo])]
  exact Leads.of_step (step_of_quiet_of_performs hrst hen htodo hm) (Leads.refl _)

section
variable {W W' : Protocol} {b : State} {rest : List MicroOp}

/-- A micro-operation that hands nothing to the engine leads from rest to rest. -/
theorem Transferred.of_performs {m : MicroOp} {u : State} (hb : AtRest b) (htodo : b.todo = m :: rest)
    (hm : Performs m b u) (hw : m.writes = []) (hconfig : SameConfig b u) :
    Transferred b { u with todo := rest } rest (registerTrace (m.events b)) (busTrace (m.events b)) :=
  ⟨leads_of_quiet hb.noReset (engineEnabled_of_cleanFlags hb.clean) htodo hm, rfl, ⟨_, hm.hist, rfl, rfl⟩,
    hm.keepsClean hb.clean hw, hconfig.trans ⟨rfl, rfl, rfl, rfl, rfl, rfl⟩⟩

theorem cs_transferred {level : Bool} (hb : AtRest b) (htodo : b.todo = .cs level :: rest) :
    Transferred b { driveCs level b with todo := rest } rest [.cs level]
      [if level then .csDeassert else .csAssert] := by
  have h := Transferred.of_performs hb htodo (u := driveCs level b) rfl rfl ⟨rfl, rfl, rfl, rfl, rfl, rfl⟩
  cases level <;> exact h

theorem setPower_transferred {p : DevPower} (hb : AtRest b) (htodo : b.todo = .setPower p :: rest) :
    Transferred b { b with devPower := p, todo := rest } rest [] [] :=
  Transferred.of_performs hb htodo (u := { b with devPower := p }) rfl rfl ⟨rfl, rfl, rfl, rfl, rfl, rfl⟩

/-! ## TRANSMIT -/

/-- The loop of TRANSMIT polls for room and writes, byte after byte (R107). -/
theorem Reached.transmitLoop {full : List Byte} (hon : seOn b = true) (hrst : b.rstAfter = []) (hserves : Serves W full)
    (bs : List Byte) : ∀ {ws : List Byte} {reg : List RegEvent} {xs : List (Byte × Byte)} {s : State},
    Reached W b ws reg (xTransmitLoop bs ++ rest) xs s → ws ++ bs <+: full →
    ∃ t xs', Reached W b (ws ++ bs) (reg ++ bs.flatMap fun c => [.polled .txe true, .wdr c]) rest xs' t := by
  induction bs with
  | nil =>
    intro ws reg xs s h _
    exact ⟨s, xs, by simpa [xTransmitLoop] using h⟩
  | cons c bs ih =>
    intro ws reg xs s h hfull
    have hfull' : (ws ++ [c]) ++ bs <+: full := by simpa using hfull
    have hws : ws <+: full := (List.prefix_append ws (c :: bs)).trans hfull
    obtain ⟨t, ys, ht, hroom, -⟩ := h.poll hon hrst hserves hws (.inl ⟨rfl, rfl⟩)
    obtain ⟨u, zs, hu⟩ := ht.write hon hrst hserves hws (by simpa using hroom)
    obtain ⟨v, vs, hv⟩ := ih hu hfull'
    exact ⟨v, vs, by simpa using hv⟩

theorem inFlight_eq_nil_iff {s : State} : inFlight s = [] ↔ s.bsy = false ∧ s.txe = true := by
  cases hb : s.bsy <;> cases htxe : s.txe <;> simp [inFlight, hb, htxe]

theorem engineEnabled_of_inFlight {s : State} (h : inFlight s = []) : engineEnabled s = false := by
  obtain ⟨hb, htxe⟩ := inFlight_eq_nil_iff.1 h
  simp [engineEnabled, loadEnabled, doneEnabled, hb, htxe]

/-- The image the drain reads on a quiet wire shows the overrun and TXE alone (R110). -/
theorem srImage_of_quiet {s : State} (hb : s.bsy = false) (htxe : s.txe = true) (hrxne : s.rxne = false) :
    srImage s = if s.ovr then 0x42 else 0x02 := by
  simp only [srImage, hb, htxe, hrxne]
  cases s.ovr <;> rfl

/-- The drain on a quiet wire: the two reads follow each other, and the flags are clean behind them (R46, R57). -/
theorem drain_leads {s : State} (hrst : s.rstAfter = []) (hflight : inFlight s = []) (harm : s.ovrArm = false)
    (htodo : s.todo = .rdDRdrop :: .rdSRdrop :: rest) :
    ∃ t, Leads (finish s) (finish t) ∧ t.todo = rest ∧
      t.hist = s.hist ++ [.rdr s.rxbuf, .rsr (if s.ovr then 0x42 else 0x02) .drain] ∧ cleanFlags t = true ∧
      SameConfig s t ∧ t.csN = s.csN ∧ t.rxout = s.rxout ∧ t.slave = s.slave := by
  obtain ⟨hb, htxe⟩ := inFlight_eq_nil_iff.1 hflight
  have hen := engineEnabled_of_inFlight hflight
  obtain ⟨u, hu⟩ : ∃ u : State, u = { (rdDR s).2 with todo := .rdSRdrop :: rest } := ⟨_, rfl⟩
  have hfirst : Leads (finish s) (finish u) := hu ▸ leads_of_quiet (m := .rdDRdrop) hrst hen htodo rfl
  have hu_todo : u.todo = .rdSRdrop :: rest := by rw [hu]
  have hu_rst : u.rstAfter = [] := by rw [hu]; exact hrst
  have hu_en : engineEnabled u = false := by rw [hu]; exact hen
  have himage : srImage u = if s.ovr then 0x42 else 0x02 := by
    rw [srImage_of_quiet] <;> simp [hu, hb, htxe]
  have hsecond := leads_of_quiet (m := .rdSRdrop) hu_rst hu_en hu_todo rfl
  refine ⟨{ (rdSR .drain u).2 with todo := rest }, hfirst.trans hsecond, rfl, ?_, ?_, ?_, ?_, ?_, ?_⟩
  · simp [himage]
    simp [hu]
  · simp [cleanFlags, hu, hb, htxe, harm]
  · constructor <;> simp [hu]
  all_goals simp [hu]

/-- The end of TRANSMIT: the wire falls quiet, and the drain finds an overrun for two words or more and clears it
(R107, R110). -/
theorem Reached.transmitEnd {ws : List Byte} {reg : List RegEvent} {xs : List (Byte × Byte)} {s : State}
    (hon : seOn b = true) (hrst : b.rstAfter = []) (hserves : Serves W ws)
    (h : Reached W b ws reg (xTransmitEnd ++ rest) xs s) :
    ∃ t xs' x, Transferred b t rest (reg ++ [.polled .txe true, .polled .bsy false, .rdr x,
        .drained (if 2 ≤ ws.length then 0x42 else 0x02)]) (xs'.map wordEvent) ∧
      t.csN = b.csN ∧ t.rxout = b.rxout ∧ xs'.map Prod.fst = ws ∧ W xs' t.slave := by
  obtain ⟨u, ys, hu, hroom, -⟩ := h.poll hon hrst hserves (List.prefix_refl ws) (.inl ⟨rfl, rfl⟩)
  obtain ⟨v, xs', ⟨hv, hleads, htodo⟩, hquiet, hroom'⟩ :=
    hu.poll hon hrst hserves (List.prefix_refl ws) (.inr (.inl ⟨rfl, rfl⟩))
  have hflight : inFlight v = [] :=
    inFlight_eq_nil_iff.2 ⟨by simpa using hquiet, hroom' (by simpa using hroom)⟩
  have hwords : xs'.map Prod.fst = ws := by
    have hwords := hv.words
    rwa [hflight, List.append_nil] at hwords
  have hovr : v.ovr = decide (2 ≤ ws.length) := by rw [hv.overrun, ← hwords, List.length_map]
  obtain ⟨t, hdrain, htrest, hhist, hc, hconfig, hcs, hrx, hsl⟩ :=
    drain_leads (hv.config.rstAfter.trans hrst) hflight hv.arm htodo
  have hemits := hv.emits.append hhist
  have hreg : registerTrace [.rdr v.rxbuf, .rsr (if v.ovr then 0x42 else 0x02) .drain] =
      [.rdr v.rxbuf, .drained (if v.ovr then 0x42 else 0x02)] := rfl
  have hbus : busTrace [.rdr v.rxbuf, .rsr (if v.ovr then 0x42 else 0x02) .drain] = [] := rfl
  rw [hreg, hbus, hovr, List.append_nil] at hemits
  refine ⟨t, xs', v.rxbuf, ⟨hleads.trans hdrain, htrest, ?_, hc, hv.config.trans hconfig⟩, hcs.trans hv.csN,
    hrx.trans hv.rxout, hwords, hsl ▸ hv.served⟩
  simpa using hemits

/-- TRANSMIT runs: its words are exchanged in order, each once, and the drain follows (R107, R110). -/
theorem transmit_transferred {bs : List Byte} (hb : AtRest b) (htodo : b.todo = xTransmit bs ++ rest)
    (hserves : Serves W bs) (hW : W [] b.slave) :
    ∃ t xs x, Transferred b t rest ((bs.flatMap fun c => [.polled .txe true, .wdr c])
        ++ [.polled .txe true, .polled .bsy false, .rdr x, .drained (if 2 ≤ bs.length then 0x42 else 0x02)])
        (xs.map wordEvent) ∧
      t.csN = b.csN ∧ t.rxout = b.rxout ∧ xs.map Prod.fst = bs ∧ W xs t.slave := by
  have hstart : Reached W b [] [] (xTransmitLoop bs ++ (xTransmitEnd ++ rest)) [] b :=
    ⟨.start hb.clean hW, .refl _, by rw [htodo, xTransmit, List.append_assoc]⟩
  obtain ⟨u, ys, hu⟩ := hstart.transmitLoop hb.on hb.noReset hserves bs (List.prefix_refl bs)
  exact hu.transmitEnd hb.on hb.noReset hserves

/-! ## RECEIVE -/

/-- One word of RECEIVE: a zero byte is written, and the byte received for it is read before the next (R108, R111). -/
theorem receiveOne_transferred (hb : AtRest b) (htodo : b.todo = .wrDRb 0x00 :: .poll .rxne true :: .rdDRkeep :: rest)
    (hserves : Serves W [0x00]) (hW : W [] b.slave) :
    ∃ t d, Transferred b t rest [.wdr 0x00, .polled .rxne true, .rdr d] [.xfer 0x00 d] ∧
      t.csN = b.csN ∧ t.rxout = b.rxout ++ [d] ∧ W [(0x00, d)] t.slave := by
  obtain ⟨htxe, -⟩ := cleanFlags_iff.1 hb.clean
  have hstart : Reached W b [] [] b.todo [] b := ⟨.start hb.clean hW, .refl _, rfl⟩
  rw [htodo] at hstart
  obtain ⟨u, ys, hu⟩ := hstart.write hb.on hb.noReset hserves (List.nil_prefix) htxe
  obtain ⟨v, xs, ⟨hv, hleads, hvtodo⟩, hflag, -⟩ :=
    hu.poll hb.on hb.noReset hserves (List.prefix_refl _) (.inr (.inr ⟨rfl, rfl, nofun⟩))
  have hrxne : v.rxne = true := by simpa using hflag
  obtain ⟨d, rfl, hflight⟩ : ∃ d, xs = [(0x00, d)] ∧ inFlight v = [] := by
    have hunread := hv.unread
    have hwords := hv.words
    rcases xs with _ | ⟨⟨o, d⟩, _ | ⟨y, ys⟩⟩
    · simp [hrxne] at hunread
    · obtain ⟨rfl, hflight⟩ : o = 0x00 ∧ inFlight v = [] := by simpa using hwords
      exact ⟨d, rfl, hflight⟩
    · simp at hwords
  obtain ⟨hbsy, hvtxe⟩ := inFlight_eq_nil_iff.1 hflight
  have hd : v.rxbuf = d := hv.received _ rfl
  have hovr : v.ovr = false := hv.overrun
  have hread := leads_of_quiet (m := .rdDRkeep) (hv.config.rstAfter.trans hb.noReset)
    (engineEnabled_of_inFlight hflight) hvtodo rfl
  refine ⟨_, d, ⟨hleads.trans hread, rfl, ?_, ?_, ?_⟩, hv.csN, ?_, hv.served⟩
  · have hemits := hv.emits.append (u := (rdDR v).2) (rdDR_hist v)
    rw [hd] at hemits
    exact hemits
  · simp [cleanFlags, hbsy, hvtxe, hv.arm, hovr]
  · exact hv.config.trans ⟨rfl, rfl, rfl, rfl, rfl, rfl⟩
  · show v.rxout ++ [v.rxbuf] = _
    rw [hv.rxout, hd]

theorem Serves.of_extends {ws ws' : List Byte} (h : Serves W ws) (hle : ws' <+: ws) : Serves W ws' :=
  fun xs o s hxs => h xs o s (hxs.trans hle)

/-- After the first word the other side serves the others. -/
theorem Serves.tail {o i : Byte} {ws : List Byte} (h : Serves W (o :: ws)) :
    Serves (fun xs sl => W ((o, i) :: xs) sl) ws :=
  fun xs o' s hxs hs => h ((o, i) :: xs) o' s (by simpa using hxs) hs

/-- RECEIVE runs: as many zero words as its count, and the bytes received for them are the result, in order (R108,
R111). -/
theorem receive_transferred (n : Nat) : ∀ {W : Protocol} {b : State}, AtRest b → b.todo = xReceive n ++ rest →
    Serves W (List.replicate n 0x00) → W [] b.slave →
    ∃ t is, Transferred b t rest (is.flatMap fun d => [.wdr 0x00, .polled .rxne true, .rdr d])
        (is.map (Event.xfer 0x00)) ∧
      t.csN = b.csN ∧ t.rxout = b.rxout ++ is ∧ is.length = n ∧ W (is.map fun d => (0x00, d)) t.slave := by
  induction n with
  | zero =>
    intro W b hb htodo _ hW
    exact ⟨b, [], ⟨.refl _, htodo, .refl rfl, hb.clean, .refl b⟩, rfl, by simp, rfl, hW⟩
  | succ n ih =>
    intro W b hb htodo hserves hW
    have hfirst : Serves W [0x00] := hserves.of_extends (by simp [List.replicate_succ])
    obtain ⟨u, d, hu, hucs, hurx, huW⟩ := receiveOne_transferred hb htodo hfirst hW
    obtain ⟨t, is, ht, htcs, htrx, hlen, htW⟩ :=
      ih (W := fun xs sl => W ((0x00, d) :: xs) sl) (hu.atRest hb) hu.todo (Serves.tail hserves) huW
    refine ⟨t, d :: is, ?_, htcs.trans hucs, ?_, by simp [hlen], htW⟩
    · simpa using hu.trans ht
    · rw [htrx, hurx, List.append_assoc]
      rfl

/-! ## The protocol operations -/

/-- The words of a run that sent two. -/
theorem exists_received_of_pair {xs : List (Byte × Byte)} {c v : Byte} (h : xs.map Prod.fst = [c, v]) :
    ∃ y z, xs = [(c, y), (v, z)] := by
  rcases xs with _ | ⟨⟨c', y⟩, _ | ⟨⟨v', z⟩, _ | ⟨_, _⟩⟩⟩ <;> simp_all

theorem exists_received_of_single {xs : List (Byte × Byte)} {c : Byte} (h : xs.map Prod.fst = [c]) :
    ∃ z, xs = [(c, z)] := by
  rcases xs with _ | ⟨⟨c', z⟩, _ | ⟨_, _⟩⟩ <;> simp_all

/-- WRITE_REGISTER runs: one span of chip-select around the command byte and the value (R121). -/
theorem writeRegister_transferred {a v : Byte} (hb : AtRest b) (htodo : b.todo = xWriteRegister a v ++ rest)
    (hserves : Serves W [encWriteByte a, v]) (hW : W [] (driveCs false b).slave) :
    ∃ t x y z sl, Transferred b t rest
        [.cs false, .polled .txe true, .wdr (encWriteByte a), .polled .txe true, .wdr v, .polled .txe true,
          .polled .bsy false, .rdr x, .drained 0x42, .cs true]
        [.csAssert, .xfer (encWriteByte a) y, .xfer v z, .csDeassert] ∧
      t.csN = true ∧ t.rxout = b.rxout ∧ t.slave = sl.map Slave.deselect ∧
      W [(encWriteByte a, y), (v, z)] sl := by
  have hselect := cs_transferred (level := false) (rest := xTransmit [encWriteByte a, v] ++ (.cs true :: rest)) hb htodo
  obtain ⟨u, xs, x, hu, -, hurx, hxs, huW⟩ := transmit_transferred (hselect.atRest hb) rfl hserves hW
  obtain ⟨y, z, rfl⟩ := exists_received_of_pair hxs
  have hdeselect := cs_transferred (hu.atRest (hselect.atRest hb)) hu.todo
  exact ⟨_, x, y, z, u.slave, (hselect.trans hu).trans hdeselect, rfl, hurx, rfl, huW⟩

/-- READ_REGISTERS runs: one span of chip-select around the command byte and the zero words, the bytes received for
these being the result (R120). -/
theorem readRegisters_transferred {a : Byte} {n : Nat} (hb : AtRest b) (htodo : b.todo = xReadRegisters a n ++ rest)
    (hserves : Serves W [encReadByte a]) (hW : W [] (driveCs false b).slave)
    (hserves' : Serves W' (List.replicate n 0x00)) (hW' : ∀ z sl, W [(encReadByte a, z)] sl → W' [] sl) :
    ∃ t z is sl reg, Transferred b t rest reg
        ([.csAssert, .xfer (encReadByte a) z] ++ is.map (Event.xfer 0x00) ++ [.csDeassert]) ∧
      t.csN = true ∧ t.rxout = b.rxout ++ is ∧ is.length = n ∧ t.slave = sl.map Slave.deselect ∧
      W' (is.map fun d => (0x00, d)) sl := by
  have htodo' : b.todo = .cs false :: (xTransmit [encReadByte a] ++ (xReceive n ++ (.cs true :: rest))) := by
    rw [htodo, xReadRegisters]
    simp [xSelectDevice, xDeselectDevice]
  have hselect := cs_transferred hb htodo'
  obtain ⟨u, xs, x, hu, -, hurx, hxs, huW⟩ := transmit_transferred (hselect.atRest hb) rfl hserves hW
  obtain ⟨z, rfl⟩ := exists_received_of_single hxs
  have hurest := hu.atRest (hselect.atRest hb)
  obtain ⟨w, is, hw, -, hwrx, hlen, hwW⟩ := receive_transferred n hurest hu.todo hserves' (hW' z _ huW)
  have hdeselect := cs_transferred (hw.atRest hurest) hw.todo
  refine ⟨_, z, is, w.slave, _, ((hselect.trans hu).trans hw).trans hdeselect, rfl, ?_, hlen, rfl, hwW⟩
  exact hwrx.trans (by rw [hurx]; rfl)

end

/-! ## The operations of the host -/

theorem atRest_latch {i : Instr} {s : State} (hready : Ready s) (hon : seOn s = true) :
    AtRest (latch i (expansion i) s) :=
  ⟨hon, hready.noReset, hready.inv.cleanFlags_of_idle hready.idle⟩

/-- An operation whose expansion runs from rest to rest completes. -/
theorem Completes.of_transferred {i : Instr} {s t : State} {reg : List RegEvent} {bus : List Event}
    {P : State → List Event → Prop} (hidle : s.todo = []) (henc : encoderResult i = none)
    (hcfg : configures i = true → s.cfgDone = false)
    (h : Transferred (latch i (expansion i) s) t [] reg bus)
    (hP : ∀ ev, registerTrace ev = reg → busTrace ev = bus → P (finish t) ev) : Completes i s P := by
  obtain ⟨ev, hhist, hreg, hbus⟩ := h.emits
  exact Completes.of_leads hidle henc hcfg h.leads h.todo h.config.op hhist (hP ev hreg hbus)

theorem map_wordEvent (xs : List (Byte × Byte)) :
    xs.map wordEvent = List.zipWith Event.xfer (xs.map Prod.fst) (xs.map Prod.snd) := by
  induction xs with
  | nil => rfl
  | cons x xs ih => simp [wordEvent, ih]

/-- Settles O51. -/
theorem transmitRuns : Obligations.TransmitRuns := by
  intro bs s hready hslave hon
  obtain ⟨t, xs, x, ht, hcs, hrx, hxs, -⟩ := transmit_transferred (rest := []) (bs := bs)
    (atRest_latch (i := .transmit bs) hready hon) (by simp [expansion]) (serves_noSlave bs) hslave
  refine Completes.of_transferred hready.idle rfl nofun ht fun ev hreg hbus => ?_
  refine ⟨by simpa using ht.clean, by simpa using hcs, by simpa using hrx, ⟨xs.map Prod.snd, ?_, ?_⟩, x, hreg⟩
  · rw [← hxs, List.length_map, List.length_map]
  · rw [hbus, map_wordEvent, hxs]

/-- Settles O52. -/
theorem receiveRuns : Obligations.ReceiveRuns := by
  intro n s hready hslave hon
  obtain ⟨t, is, ht, hcs, hrx, hlen, -⟩ := receive_transferred (rest := []) n.toNat
    (atRest_latch (i := .receive n) hready hon) (by simp [expansion]) (serves_noSlave _) hslave
  refine Completes.of_transferred hready.idle rfl nofun ht fun ev hreg hbus => ?_
  exact ⟨by simpa using ht.clean, by simpa using hcs, is, hlen, by simpa using hrx, hbus, hreg⟩

theorem driveCs_slave_of_none {s : State} (level : Bool) (h : s.slave = none) : (driveCs level s).slave = none := by
  cases level <;> simp [h]

/-- READ_REGISTERS and the read frame are the same run under two names. -/
theorem completes_readRegisters {a n : Byte} {s : State} {i : Instr} (hready : Ready s) (hslave : s.slave = none)
    (hon : seOn s = true) (henc : encoderResult i = none) (hcfg : configures i = false)
    (hexp : expansion i = xReadRegisters a n.toNat) :
    Completes i s fun t mid => cleanFlags t = true ∧ t.csN = true ∧
      ∃ (z : Byte) (is : List Byte), is.length = n.toNat ∧ t.rxout = is ∧
        busTrace mid = [.csAssert, .xfer (a ||| 0xC0) z] ++ is.map (Event.xfer 0x00) ++ [.csDeassert] := by
  obtain ⟨t, z, is, sl, reg, ht, hcs, hrx, hlen, -⟩ := readRegisters_transferred (rest := []) (a := a) (n := n.toNat)
    (atRest_latch (i := i) hready hon) (by simp [hexp]) (serves_noSlave _) (driveCs_slave_of_none false hslave)
    (serves_noSlave _) (fun _ _ h => h)
  refine Completes.of_transferred hready.idle henc (by simp [hcfg]) ht fun ev hreg hbus => ?_
  have hcmd : encReadByte a = a ||| 0xC0 := BitVec.or_assoc a 0x80 0x40
  exact ⟨by simpa using ht.clean, by simpa using hcs, z, is, hlen, by simpa using hrx, hcmd ▸ hbus⟩

/-- Settles O53. -/
theorem readRegistersRuns : Obligations.ReadRegistersRuns := by
  rintro a n s i hready hslave hon (rfl | rfl)
  · exact completes_readRegisters hready hslave hon rfl rfl rfl
  · exact completes_readRegisters hready hslave hon rfl rfl rfl

/-- WRITE_REGISTER and the write frame are the same run under two names. -/
theorem completes_writeRegister {a v : Byte} {s : State} {i : Instr} (hready : Ready s) (hslave : s.slave = none)
    (hon : seOn s = true) (henc : encoderResult i = none) (hcfg : configures i = false)
    (hexp : expansion i = xWriteRegister a v) :
    Completes i s fun t mid => cleanFlags t = true ∧ t.csN = true ∧ t.rxout = [] ∧
      (∃ y z : Byte, busTrace mid = [.csAssert, .xfer (a ||| 0x40) y, .xfer v z, .csDeassert]) ∧
      ∃ x, registerTrace mid = [.cs false, .polled .txe true, .wdr (a ||| 0x40), .polled .txe true, .wdr v,
        .polled .txe true, .polled .bsy false, .rdr x, .drained 0x42, .cs true] := by
  obtain ⟨t, x, y, z, sl, ht, hcs, hrx, -⟩ := writeRegister_transferred (rest := []) (a := a) (v := v)
    (atRest_latch (i := i) hready hon) (by simp [hexp]) (serves_noSlave _) (driveCs_slave_of_none false hslave)
  refine Completes.of_transferred hready.idle henc (by simp [hcfg]) ht fun ev hreg hbus => ?_
  exact ⟨by simpa using ht.clean, by simpa using hcs, by simpa using hrx, ⟨y, z, hbus⟩, x, hreg⟩

/-- Settles O54. -/
theorem writeRegisterRuns : Obligations.WriteRegisterRuns := by
  rintro a v s i hready hslave hon (rfl | rfl)
  · exact completes_writeRegister hready hslave hon rfl rfl rfl
  · exact completes_writeRegister hready hslave hon rfl rfl rfl

end Sys2Proof.Machine
end

section
/-! PROOFS. INITIALIZE, and the protocol operations with the reference slave on the other side of the wire (42_protocol.md
R120, R121, R126, R127, 20_memory.md R60). -/

namespace Sys2Proof.Machine

/-! ## INITIALIZE -/

section
variable {b : State} {rest : List MicroOp}

/-- A register write with no slave plugged in leaves none plugged in. -/
theorem writeRegister_noSlave {a v : Byte} (hb : AtRest b) (hslave : b.slave = none)
    (htodo : b.todo = xWriteRegister a v ++ rest) :
    ∃ t y z reg, Transferred b t rest (.cs false :: reg)
        [.csAssert, .xfer (encWriteByte a) y, .xfer v z, .csDeassert] ∧
      t.csN = true ∧ t.rxout = b.rxout ∧ t.slave = none := by
  obtain ⟨t, x, y, z, sl, ht, hcs, hrx, hsl, hnone⟩ :=
    writeRegister_transferred hb htodo (serves_noSlave _) (driveCs_slave_of_none false hslave)
  have hnone' : sl = none := hnone
  exact ⟨t, y, z, _, ht, hcs, hrx, by simp [hsl, hnone']⟩

/-- The first three micro-operations of INITIALIZE configure pins and bus, and turn the engine on (R126). -/
theorem configure_leads (hc : cleanFlags b = true) (hrst : b.rstAfter = []) (hd : b.cfgDone = false)
    (htodo : b.todo = .extPins :: .extBusEn :: .wrCRcfg :: rest) :
    ∃ t, Leads (finish b) (finish t) ∧ t.todo = rest ∧ t.hist = b.hist ++ [.extPins, .extBusEn, .wcr 0x034F] ∧
      AtRest t ∧ t.op = b.op ∧ t.rxout = b.rxout ∧ t.slave = b.slave ∧ t.cr = 0x034F ∧ t.pinsCfg = true ∧
      t.busClkEn = true ∧ t.cfgDone = true := by
  have hen := engineEnabled_of_cleanFlags hc
  obtain ⟨u, hu⟩ : ∃ u : State, u = { b with
      pinsCfg := true, todo := .extBusEn :: .wrCRcfg :: rest, hist := b.hist ++ [.extPins] } := ⟨_, rfl⟩
  have hfirst : Leads (finish b) (finish u) := hu ▸ leads_of_quiet (m := .extPins) hrst hen htodo rfl
  obtain ⟨v, hv⟩ : ∃ v : State, v = { u with
      busClkEn := true, todo := .wrCRcfg :: rest, hist := u.hist ++ [.extBusEn] } := ⟨_, rfl⟩
  have hsecond : Leads (finish u) (finish v) := by
    rw [hv]
    refine leads_of_quiet (m := .extBusEn) ?_ ?_ ?_ rfl
    · rw [hu]; exact hrst
    · rw [hu]; exact hen
    · rw [hu]
  have hvc : cleanFlags v = true := by rw [hv, hu]; exact hc
  have hthird := leads_of_quiet (m := .wrCRcfg) (s := v) (rest := rest) (by rw [hv, hu]; exact hrst)
    (engineEnabled_of_cleanFlags hvc) (by rw [hv]) (wrCR_eq_next.2 ⟨rfl, by rw [hv, hu]; exact hd, rfl⟩)
  have hbits : crSPE 0x034F = true ∧ crMSTR 0x034F = true := by decide
  refine ⟨_, (hfirst.trans hsecond).trans hthird, rfl, ?_, ⟨seOn_iff.2 ⟨?_, hbits⟩, ?_, hvc⟩, ?_⟩
  · simp [hv, hu, Config.crCfg]
  · simp [hv]
  · simpa [hv, hu] using hrst
  · simp [hv, hu, Config.crCfg]

end

/-- Settles O55: pins, bus and CR are configured at once, and the three register writes follow with the ghost moves. -/
theorem initializeRuns : Obligations.InitializeRuns := by
  intro s hready hslave hd
  obtain ⟨hinv, hidle, hrst⟩ := hready
  obtain ⟨b, hbleads, hbtodo, hbhist, hb, hbop, hbrx, hbsl, hbcr, hbpins, hbclk, hbdone⟩ :=
    configure_leads (b := latch .initDevice (expansion .initDevice) s) (hinv.cleanFlags_of_idle hidle) hrst hd rfl
  obtain ⟨t₁, z0, z1, reg, h₁, -, hrx₁, hsl₁⟩ := writeRegister_noSlave hb (hbsl.trans hslave) hbtodo
  have hb₁ := h₁.atRest hb
  obtain ⟨t₂, z2, z3, reg₂, h₂, -, hrx₂, hsl₂⟩ := writeRegister_noSlave hb₁ hsl₁ h₁.todo
  have hb₂ := h₂.atRest hb₁
  have h₃ := setPower_transferred hb₂ h₂.todo
  obtain ⟨t₄, z4, z5, reg₄, h₄, hcs₄, hrx₄, -⟩ := writeRegister_noSlave (h₃.atRest hb₂) hsl₂ h₃.todo
  have h₅ := setPower_transferred (h₄.atRest (h₃.atRest hb₂)) h₄.todo
  have h := (((h₁.trans h₂).trans h₃).trans h₄).trans h₅
  obtain ⟨ev, hhist, hreg, hbus⟩ := h.emits
  have hrx : t₄.rxout = [] := hrx₄.trans (hrx₂.trans (hrx₁.trans hbrx))
  refine Completes.of_leads hidle rfl (fun _ => hd) (hbleads.trans h.leads) h.todo (h.config.op.trans hbop)
    (ev := [.extPins, .extBusEn, .wcr 0x034F] ++ ev) ?_ ?_
  · rw [hhist, hbhist, List.append_assoc]
    rfl
  · refine ⟨by simpa using h.clean, by simpa using hcs₄, by simpa using hrx, ?_, ?_, ?_, ?_, ?_, by simp, ?_, z0, z1, z2,
      z3, z4, z5, ?_⟩
    · simpa using h.config.cr.trans hbcr
    · simpa using h.config.seOn.trans hb.on
    · simpa using h.config.pinsCfg.trans hbpins
    · simpa using h.config.busClkEn.trans hbclk
    · simpa using h.config.cfgDone.trans hbdone
    · rw [registerTrace_append, hreg]
      rfl
    · rw [busTrace_append, hbus]
      rfl

/-! ## The reference slave -/

/-- What a selected slave is before, between and after the two words of a write frame (R60). -/
def writeProtocol (sl : Slave) (a : Byte) (v : Byte) : Protocol
  | [], now => now = some (Slave.select sl)
  | [_], now => now = some { sl with ptr := cmdAddr a, mb := true, mode := .wr }
  | _, now => ∃ sl', now = some sl' ∧ sl'.regs = Memory.write sl.regs (cmdAddr a).toNat v

theorem serves_write (sl : Slave) {a : Byte} (v : Byte) (ha : addrFits a = true) :
    Serves (writeProtocol sl a v) [encWriteByte a, v] := by
  rintro (_ | ⟨x, _ | ⟨y, ys⟩⟩) o s hxs hs
  · obtain rfl : o = encWriteByte a := by simpa using hxs
    refine ⟨_, _, misoExchange_of_some hs (exchange_of_cmd rfl (cmdMB_encWriteByte a)), ?_⟩
    simp [writeProtocol, Slave.select, cmdRW_encWriteByte_of_addrFits ha]
  · obtain ⟨-, rfl⟩ : x.1 = encWriteByte a ∧ o = v := by simpa using hxs
    exact ⟨_, _, misoExchange_of_some hs (exchange_of_wr rfl), _, rfl, by simp⟩
  · have hlen := hxs.length_le
    simp at hlen

/-- What a selected slave is before and after the command byte of a read frame. -/
def readCommandProtocol (sl : Slave) (a : Byte) : Protocol
  | [], now => now = some (Slave.select sl)
  | _, now => now = some { sl with ptr := cmdAddr a, mb := true, mode := .rd }

theorem serves_readCommand (sl : Slave) (a : Byte) : Serves (readCommandProtocol sl a) [encReadByte a] := by
  rintro (_ | ⟨x, xs⟩) o s hxs hs
  · obtain rfl : o = encReadByte a := by simpa using hxs
    refine ⟨_, _, misoExchange_of_some hs (exchange_of_cmd rfl (cmdMB_encReadByte a)), ?_⟩
    simp [readCommandProtocol, Slave.select]
  · have hlen := hxs.length_le
    simp at hlen

/-- What the slave is in the data phase of a read from register `a` on: the bytes it has answered are its registers in
order, and while there are registers left its pointer names the next (R60). -/
def readDataProtocol (regs : Memory) (a : Nat) : Protocol := fun xs now =>
  ∃ sl, now = some sl ∧ sl.regs = regs ∧
    xs.map Prod.snd = (List.range xs.length).map (fun k => Memory.read regs (a + k)) ∧
    (a + xs.length < 64 → sl.mode = .rd ∧ sl.ptr.toNat = a + xs.length)

theorem toNat_ptr_advance {sl : Slave} (h : sl.ptr.toNat + 1 < 64) :
    (Slave.advance sl).mode = sl.mode ∧ (Slave.advance sl).ptr.toNat = sl.ptr.toNat + 1 := by
  have hne : sl.ptr ≠ 63 := fun e => by simp [e] at h
  simp only [Slave.advance, if_neg hne, true_and]
  rw [BitVec.toNat_add]
  exact Nat.mod_eq_of_lt h

theorem serves_readData (regs : Memory) {a n : Nat} (h : a + n ≤ 64) :
    Serves (readDataProtocol regs a) (List.replicate n 0x00) := by
  rintro xs o s hxs ⟨sl, hsl, rfl, hanswers, hnext⟩
  have hlen : xs.length + 1 ≤ n := by simpa using hxs.length_le
  obtain ⟨hmode, hptr⟩ := hnext (by omega)
  refine ⟨_, _, misoExchange_of_some hsl (exchange_of_rd hmode), _, rfl, by simp, ?_, fun hleft => ?_⟩
  · simp [List.range_succ, hanswers, hptr]
  · have hadv := toNat_ptr_advance (sl := sl) (by simp at hleft; omega)
    refine ⟨hadv.1.trans hmode, hadv.2.trans ?_⟩
    simp [hptr, Nat.add_assoc]

/-- Once the pins are configured the line selects a plugged-in slave (10_state.md R19). -/
theorem driveCs_selects {s : State} {sl : Slave} (hpins : s.pinsCfg = true) (hsl : s.slave = some sl) :
    (driveCs false s).slave = some (Slave.select sl) := by
  simp [hpins, hsl]

/-! ## The protocol operations with the slave -/

theorem Completes.mono {i : Instr} {s : State} {P Q : State → List Event → Prop} (h : Completes i s P)
    (hPQ : ∀ t ev, P t ev → Q t ev) : Completes i s Q := by
  obtain ⟨u, hu, k, t, ev, hrun, htodo, hop, hhist, hP⟩ := h
  exact ⟨u, hu, k, t, ev, hrun, htodo, hop, hhist, hPQ t ev hP⟩

/-- An operation that completes from a ready state with no reset on its way leaves a ready state: the whole run keeps the
invariant. -/
theorem Completes.ready {i : Instr} {s : State} {P : State → List Event → Prop} (h : Completes i s P)
    (hready : Ready s) (hrst : ∀ t ev, P t ev → t.rstAfter = []) : Completes i s fun t ev => Ready t ∧ P t ev := by
  obtain ⟨u, hu, k, t, ev, hrun, htodo, hop, hhist, hP⟩ := h
  have hinv : Inv t := (hready.inv.turn (turn_of_exec hready.idle hu)).run hrun
  exact ⟨u, hu, k, t, ev, hrun, htodo, hop, hhist, ⟨hinv, htodo, hrst t ev hP⟩, hP⟩

/-- WRITE_REGISTER with the slave plugged in: the slave's registers are those of one store, and the configuration is as
before. -/
theorem writeRegister_reaches_slave {a v : Byte} {s : State} {sl : Slave} (hready : Ready s) (hon : seOn s = true)
    (hpins : s.pinsCfg = true) (hsl : s.slave = some sl) (ha : addrFits a = true) :
    Completes (.writeRegister a v) s fun t _ => Ready t ∧ seOn t = true ∧ t.pinsCfg = true ∧
      ∃ sl', t.slave = some sl' ∧ sl'.regs = Memory.write sl.regs a.toNat v := by
  obtain ⟨t, x, y, z, now, ht, -, -, hnow, sl', rfl, hregs⟩ := writeRegister_transferred (rest := []) (a := a) (v := v)
    (atRest_latch (i := .writeRegister a v) hready hon) (by simp [expansion]) (serves_write sl v ha)
    (driveCs_selects hpins hsl)
  have hpins' : t.pinsCfg = true := ht.config.pinsCfg.trans hpins
  have hrst : t.rstAfter = [] := ht.config.rstAfter.trans hready.noReset
  have hdone : Completes (.writeRegister a v) s fun t _ => t.rstAfter = [] ∧ seOn t = true ∧ t.pinsCfg = true ∧
      ∃ sl', t.slave = some sl' ∧ sl'.regs = Memory.write sl.regs a.toNat v := by
    refine Completes.of_transferred hready.idle rfl nofun ht fun ev _ _ => ?_
    refine ⟨by simpa using hrst, by simpa using ht.config.seOn.trans hon, by simpa using hpins', Slave.deselect sl',
      by simp [hnow], ?_⟩
    rw [← toNat_cmdAddr_of_addrFits ha]
    exact hregs
  exact (hdone.ready hready fun _ _ h => h.1).mono fun _ _ h => ⟨h.1, h.2.2⟩

theorem Inv.slave_wf {s : State} {sl : Slave} (h : Inv s) (hsl : s.slave = some sl) : Memory.wf sl.regs = true := by
  simpa [slaveWf, hsl] using h.memWf

/-- Settles O56. -/
theorem writeRegisterReachesTheSlave : Obligations.WriteRegisterReachesTheSlave := by
  intro a v s sl hready hon hpins hsl ha
  refine (writeRegister_reaches_slave hready hon hpins hsl ha).mono fun t _ h => ?_
  obtain ⟨-, -, -, sl', hsl', hregs⟩ := h
  refine ⟨sl', hsl', ?_, fun c hc => ?_⟩
  · rw [hregs, Memory.read_write_same _ _ _ (hready.inv.slave_wf hsl)]
  · rw [hregs, Memory.read_write_other _ _ _ _ hc]

/-- Settles O57: the slave answers the zero words with its registers in order, and stores nothing. -/
theorem readRegistersReturnsTheSlavesBytes : Obligations.ReadRegistersReturnsTheSlavesBytes := by
  intro a n s sl hready hon hpins hsl ha hn
  have hafter : ∀ z now, readCommandProtocol sl a [(encReadByte a, z)] now → readDataProtocol sl.regs a.toNat [] now :=
    fun _ _ hnow => ⟨_, hnow, rfl, rfl, fun _ => ⟨rfl, toNat_cmdAddr_of_addrFits ha⟩⟩
  obtain ⟨t, z, is, now, reg, ht, -, hrx, hlen, hnow, sl', rfl, hregs, hanswers, -⟩ :=
    readRegisters_transferred (rest := []) (a := a) (n := n.toNat) (atRest_latch (i := .readRegisters a n) hready hon)
      (by simp [expansion]) (serves_readCommand sl a) (driveCs_selects hpins hsl) (serves_readData sl.regs hn) hafter
  have hresult : is = (List.range n.toNat).map fun k => Memory.read sl.regs (a.toNat + k) := by
    simpa [Function.comp_def, hlen] using hanswers
  refine Completes.of_transferred hready.idle rfl nofun ht fun ev _ _ => ⟨?_, Slave.deselect sl', ?_, hregs⟩
  · simpa [hresult] using hrx
  · simp [hnow]

/-- Settles O58: the write leaves a ready state, from which the read of one register returns what was written. -/
theorem writeThenReadReturnsTheValue : Obligations.WriteThenReadReturnsTheValue := by
  intro a v s sl hready hon hpins hsl ha
  refine (writeRegister_reaches_slave hready hon hpins hsl ha).mono fun t _ h => ?_
  obtain ⟨htready, hton, htpins, sl', hsl', hregs⟩ := h
  have hread : Memory.read sl'.regs a.toNat = v := by
    rw [hregs, Memory.read_write_same _ _ _ (hready.inv.slave_wf hsl)]
  have hlast : a.toNat + (1 : Byte).toNat ≤ 64 := addrFits_iff.1 ha
  refine ⟨⟨sl', hsl', hread⟩, ?_⟩
  refine (readRegistersReturnsTheSlavesBytes a 1 t sl' htready hton htpins hsl' ha hlast).mono fun u _ hu => ?_
  rw [hu.1, ← hread]
  rfl

end Sys2Proof.Machine
end
